-- ==== Sys2Proof/Word.lean ====
section
/-! DEFINITION. The word types of the block (spec/00_scope.md R5, R7): every quantity is unsigned, bit 0 is the
least significant bit. `add64`, `mul64`, `mul128`, XOR, AND, OR, NOT of R8 are the operations of `BitVec` itself,
which wrap at the width. -/

namespace Sys2Proof

/-- `u64`: a PRNG word, a register, a command word (R5 `W`, "command word width"). -/
abbrev Word := BitVec 64

/-- `u32`: the `imm32` operand of a command and a DoorMask (R80, R39). -/
abbrev U32 := BitVec 32

/-- `u128`: the MCG128 state (R22). -/
abbrev U128 := BitVec 128

/-- A 7-bit register index (R50). -/
abbrev RegIndex := BitVec 7

end Sys2Proof
end

