-- ==== Sys2Proof/Syntax.lean ====
section
/-! DEFINITION. The fifteen commands (spec/30_encoding.md R83; spec/opcode_table.json), one constructor per row. The
operands are the fields of the command word as R80 cuts them; `ARG0` and the CDF table are not part of the word. -/

namespace Sys2Proof

/-- One command (R83). -/
inductive Instr where
  /-- `CONFIG num_doors, rng_id` (R230): `imm32` and `sub`. -/
  | config (numDoors : U32) (rngId : BitVec 8)
  /-- `SEED` (R131). -/
  | seed
  /-- `ERRCLR` (R234). -/
  | errclr
  /-- `ROTL k` (R111): the whole field `sub`; `WellFormed` asks that its top two bits be 0. -/
  | rotl (sub : BitVec 8)
  /-- `ROTR k` (R112): as `ROTL`. -/
  | rotr (sub : BitVec 8)
  /-- `NEXT` (R132). -/
  | next
  /-- `RAND32` (R154). -/
  | rand32
  /-- `RAND52` (R155). -/
  | rand52
  /-- `FRAND` (R156). -/
  | frand
  /-- `BOUNDED range` (R167). -/
  | bounded (range : U32)
  /-- `SAMPLE m` (R183). -/
  | sample (m : U32)
  /-- `SAMPLE.C m` (R184). -/
  | sampleC (m : U32)
  /-- `PICK population` (R198). -/
  | pick (population : U32)
  /-- `PICK.C population` (R199). -/
  | pickC (population : U32)
  /-- `TRIAL` (R217). -/
  | trial
deriving DecidableEq, Repr

end Sys2Proof
end

