-- ==== Sys2Proof/WellFormed.lean ====
section
/-! DEFINITION. Which instructions have a command word of their own (spec/30_encoding.md R81): every operand fits its
field by its type, except that format R leaves only `sub[5:0]` to the rotate amount. -/

namespace Sys2Proof

/-- The operands of the instruction are ones its format admits: `sub[7:6]` of `ROTL` and `ROTR` must be zero (R81). -/
def Instr.wellFormed : Instr → Bool
  | .config _ _ => true
  | .seed => true
  | .errclr => true
  | .rotl sub => decide (sub.toNat < 64)
  | .rotr sub => decide (sub.toNat < 64)
  | .next => true
  | .rand32 => true
  | .rand52 => true
  | .frand => true
  | .bounded _ => true
  | .sample _ => true
  | .sampleC _ => true
  | .pick _ => true
  | .pickC _ => true
  | .trial => true

end Sys2Proof
end

