-- ==== Sys2Proof/Decode.lean ====
section
/-! DEFINITION. The command word (spec/30_encoding.md R80 to R84): its fields, the decoder, total on all words and
rejecting by name, and the encoder. -/

namespace Sys2Proof

/-- Field `op = cw[7:0]` (R80). -/
def opField (w : Word) : BitVec 8 := w.extractLsb' 0 8

/-- Field `c = cw[8]` (R80). -/
def cField (w : Word) : BitVec 1 := w.extractLsb' 8 1

/-- Field `rsv1 = cw[15:9]` (R80). -/
def rsv1Field (w : Word) : BitVec 7 := w.extractLsb' 9 7

/-- Field `sub = cw[23:16]` (R80). -/
def subField (w : Word) : BitVec 8 := w.extractLsb' 16 8

/-- Field `rsv2 = cw[31:24]` (R80). -/
def rsv2Field (w : Word) : BitVec 8 := w.extractLsb' 24 8

/-- Field `imm32 = cw[63:32]` (R80, R82: used as it stands). -/
def immField (w : Word) : U32 := w.extractLsb' 32 32

/-- Why a word is illegal (R84). Each of them raises `E_ILLEGAL`. -/
inductive Reject where
  /-- `op` is none of the thirteen listed (R84). -/
  | unknownOpcode
  /-- `rsv1` or `rsv2` is not zero (R84). -/
  | reservedField
  /-- A field that the format does not use is not zero (R81, R84). -/
  | unusedField
deriving DecidableEq, Repr

/-- Format Z (R81): `c`, `sub` and `imm32` must be zero. -/
def formatZ (w : Word) (i : Instr) : Except Reject Instr :=
  if cField w = 0 ∧ subField w = 0 ∧ immField w = 0 then .ok i else .error .unusedField

/-- Format R (R81): `c`, `sub[7:6]` and `imm32` must be zero. -/
def formatR (w : Word) (i : BitVec 8 → Instr) : Except Reject Instr :=
  if cField w = 0 ∧ (subField w).toNat < 64 ∧ immField w = 0 then .ok (i (subField w)) else .error .unusedField

/-- Format I (R81): `c` and `sub` must be zero. -/
def formatI (w : Word) (i : U32 → Instr) : Except Reject Instr :=
  if cField w = 0 ∧ subField w = 0 then .ok (i (immField w)) else .error .unusedField

/-- Format IC (R81): `sub` must be zero; `c` chooses between the uniform and the table form. -/
def formatIC (w : Word) (uniform table : U32 → Instr) : Except Reject Instr :=
  if subField w = 0 then .ok (if cField w = 1 then table (immField w) else uniform (immField w))
  else .error .unusedField

/-- Format G (R81): `c` must be zero. -/
def formatG (w : Word) (i : U32 → BitVec 8 → Instr) : Except Reject Instr :=
  if cField w = 0 then .ok (i (immField w) (subField w)) else .error .unusedField

/-- The opcode map of R83, by `op`. -/
def decodeOp (w : Word) : Except Reject Instr :=
  match (opField w).toNat with
  | 0x01 => formatG w .config
  | 0x02 => formatZ w .seed
  | 0x03 => formatZ w .errclr
  | 0x10 => formatR w .rotl
  | 0x11 => formatR w .rotr
  | 0x20 => formatZ w .next
  | 0x21 => formatZ w .rand32
  | 0x22 => formatZ w .rand52
  | 0x23 => formatZ w .frand
  | 0x30 => formatI w .bounded
  | 0x31 => formatIC w .sample .sampleC
  | 0x32 => formatIC w .pick .pickC
  | 0x40 => formatZ w .trial
  | _ => .error .unknownOpcode

/-- The decoder: the instruction a command word stands for, or why it is illegal (R83, R84). -/
def decode (w : Word) : Except Reject Instr :=
  if rsv1Field w = 0 ∧ rsv2Field w = 0 then decodeOp w else .error .reservedField

/-- `cw = op | c << 8 | sub << 16 | imm32 << 32` (R80), the reserved fields zero. -/
def commandWord (op : BitVec 8) (c : BitVec 1) (sub : BitVec 8) (imm : U32) : Word :=
  op.setWidth 64 ||| c.setWidth 64 <<< 8 ||| sub.setWidth 64 <<< 16 ||| imm.setWidth 64 <<< 32

/-- The command word of an instruction (R83, R86). -/
def encode : Instr → Word
  | .config n e => commandWord 0x01 0 e n
  | .seed => commandWord 0x02 0 0 0
  | .errclr => commandWord 0x03 0 0 0
  | .rotl sub => commandWord 0x10 0 sub 0
  | .rotr sub => commandWord 0x11 0 sub 0
  | .next => commandWord 0x20 0 0 0
  | .rand32 => commandWord 0x21 0 0 0
  | .rand52 => commandWord 0x22 0 0 0
  | .frand => commandWord 0x23 0 0 0
  | .bounded r => commandWord 0x30 0 0 r
  | .sample m => commandWord 0x31 0 0 m
  | .sampleC m => commandWord 0x31 1 0 m
  | .pick p => commandWord 0x32 0 0 p
  | .pickC p => commandWord 0x32 1 0 p
  | .trial => commandWord 0x40 0 0 0

/-- The word of which the opcode table gives the low `nbits` bits: the bits above are zero. -/
def tableWord (nbits w : Nat) : Word := BitVec.ofNat 64 (w % 2 ^ nbits)

/-- The instruction the decoder reads from a row of spec/opcode_table.json (its bits numbered as in the table). -/
def decodeTableWord (nbits w : Nat) : Option Instr :=
  match decode (tableWord nbits w) with
  | .ok i => some i
  | .error _ => none

end Sys2Proof
end

