-- ==== Sys2Proof/Config.lean ====
section
/-! DEFINITION. The configuration record (the rows of spec/00_scope.md R5 marked *configuration*; U9 of
spec/93_implementation_defined.md) and the free values of the model, which have no body. The values the machine is
built with are `Sys2Proof.Machine.params` (Machine/Parameters.lean). -/

namespace Sys2Proof

/-- The OPEN parameters of spec/92_eei_decisions.md section 6. Every internal function of the block takes this record,
so that it can be read and reasoned about at any parameter values. -/
structure Config where
  /-- `MCG_MULT_HI`: upper half of the MCG128 multiplier (D10). -/
  mcgMultHi : Word
  /-- `MCG_OUT_POST`: MCG128's output is taken after the multiplication (D11). -/
  mcgOutPost : Bool
  /-- `MCG_SEED_MAP` (D12). -/
  mcgSeedMap : Word → U128
  /-- `SFC_SEED_MAP`: the words `a`, `b`, `c` made from a seed (D13). -/
  sfcSeedMap : Word → Word × Word × Word
  /-- `SFC_CTR_INIT` (D13). -/
  sfcCtrInit : Word
  /-- `PCG_CTR_INIT` (D13). -/
  pcgCtrInit : Word
  /-- `PCG_CTR_MULT` (D14). -/
  pcgCtrMult : Word
  /-- `PCG_CTR_INC` (D14). -/
  pcgCtrInc : Word
  /-- `MASK_W`, at most 32 (D21). -/
  maskW : Nat
  /-- `CDF_DEPTH`, at most 64 (D22). -/
  cdfDepth : Nat
  /-- `RETRY_CAP`: how many redraws one bounded draw may take; `none` is no bound (D25, U4). -/
  retryCap : Option Nat
  /-- `FORCED_DRAWS`: a forced reveal or switch pick consumes a draw (D30, D31). -/
  forcedDraws : Bool
  /-- `STAY_IS_ONE`: the coin value 1 means Stay (D32). -/
  stayIsOne : Bool

/-- The content of `ARG0` right after reset: "unspecified content" (R37). DESIGN CHOICE (log 3): a free value. -/
opaque Config.arg0AtReset : Word

/-- The content of `RES` right after reset: "unspecified content" (R37). DESIGN CHOICE (log 3): a free value. -/
opaque Config.resAtReset : Word

/-- The content of `CDF[i]` right after reset: "unspecified content" (R37). DESIGN CHOICE (log 3): free values. -/
opaque Config.cdfAtReset : Nat → Word

/-- The content of `S[i]` right after reset, where the spec has `none` (R37). DESIGN CHOICE (log 5): free values. -/
opaque Config.sAtReset : Nat → Word

/-- The pattern of the NaN that `f64_sub` answers on a NaN operand or on the difference of two equal infinities.
IEEE-754 does not fix it and no command reaches it (R153). DESIGN CHOICE (log 13): a free value. -/
opaque Config.nanPattern : Word

end Sys2Proof
end

