-- ==== Sys2Proof/Machine/State.lean ====
section
/-! DEFINITION. The state of the block (spec/10_state.md R20), plain data; the reasons a step stops; the state after
reset (R37, spec/70_reset_and_hazards.md R281). -/

namespace Sys2Proof.Machine

/-- `ENG`, the selected engine (R23). An enumeration: the value 3 "is never held". -/
inductive Engine where
  /-- Code 0 (R23). -/
  | mcg128
  /-- Code 1 (R23). -/
  | sfcCounter
  /-- Code 2 (R23). -/
  | sfcPcgCounter
deriving DecidableEq, Repr

/-- The PRNG words `S[0..3]` (R20, R21, R22): one bank shared by the three engines. -/
structure Bank where
  /-- `S[0]`: MCG128 low half, SFC `a`. -/
  s0 : Word
  /-- `S[1]`: MCG128 high half, SFC `b`. -/
  s1 : Word
  /-- `S[2]`: SFC `c`; unused under MCG128. -/
  s2 : Word
  /-- `S[3]`: SFC `counter`; unused under MCG128. -/
  s3 : Word
deriving DecidableEq, Repr

/-- A register that can hold the spec's `none` (R35): its content, and whether anything has written it since reset.
`written = false` is the spec's `none`: the content is then unspecified (log 3). No meaning reads the mark; it says
which runs the spec gives no result (Sys2Proof/Safety.lean). -/
structure Reg where
  /-- The 64 bits the register holds. -/
  val : Word
  /-- False while the register holds the spec's `none`. -/
  written : Bool
deriving DecidableEq, Repr

/-- What can come to the block from outside: a host operation (R52) or the reset input (R280). -/
inductive HostOp where
  /-- `RD idx` (R52). -/
  | rd (idx : RegIndex)
  /-- `WR idx, v` (R52). -/
  | wr (idx : RegIndex) (v : Word)
  /-- The platform asserts reset (R280). -/
  | reset
deriving DecidableEq, Repr

/-- The state of the block (R20), and the two ends of its host interface (the last two fields, the model's own). -/
structure State where
  /-- `S[0..3]` (R21). -/
  bank : Bank
  /-- `ENG` (R23). -/
  eng : Engine
  /-- `CFG` (R24). -/
  cfg : Bool
  /-- `NDOORS` (R25). -/
  ndoors : U32
  /-- `ARG0` (R26). -/
  arg0 : Reg
  /-- `RES` (R27). -/
  res : Reg
  /-- `ERR` (R28). -/
  err : Bool
  /-- `ERRCODE` (R28). -/
  errcode : BitVec 8
  /-- `ERRCMD` (R28). -/
  errcmd : Word
  /-- The CDF table (R29). -/
  cdf : Vector Reg 64
  /-- The model's own (log 1): the operations still to be performed, oldest first (R60). -/
  hostOps : List HostOp
  /-- The model's own (log 2): what the last performed host operation returned to the host (R52). -/
  hostRead : Option Word
deriving DecidableEq, Repr

/-- Why the machine stops. None of these is one of the block's six error codes, which are next states (R253). -/
inductive Fault where
  /-- `SAMPLE.C`, `PICK.C` on a table that breaks the contract of R182 (U1). Safe: the block goes on with an
  undefined result, the model stops. -/
  | malformedTable
  /-- `PICK`, `PICK.C` whose population is not the popcount of the mask (R197, U2). Safe: as above. -/
  | populationMismatch
  /-- `BOUNDED`, `SAMPLE`, `PICK`, `TRIAL` whose rejection loop never ends (R284, U3): the stuck state. Safe: the block
  never answers either (log 7). -/
  | neverCompletes
  /-- A bounded draw under a configured `RETRY_CAP` that exceeds it (R168, U4). Not raised at the default
  parameters, which have no cap. Safe: no value is returned. -/
  | retryCapExceeded
  /-- An operation that reads an element nothing has written since reset (R35, U6). Raised only by
  `Sys2Proof.Safety.checkedStep`, never by `step` (log 3). Safe. -/
  | unwrittenElement
deriving DecidableEq, Repr

/-- Why the model has no meaning for an operation. -/
inductive Refusal where
  /-- Raised by an arm of `exec` for a command that has no meaning yet. Safe: nothing is claimed of it. -/
  | notModelled (mnemonic : String)
  /-- Raised by a host access to an index the register map reserves (R51, R58, U7: `refuse`). Safe. -/
  | reservedIndex (idx : RegIndex)
deriving DecidableEq, Repr

/-- The outcome of a command, a host operation or a step. -/
abbrev Result := Host.Outcome State Fault Refusal

/-- A register right after reset: the spec's `none`, with unspecified content (R35, R37). -/
def Reg.unwritten (content : Word) : Reg := { val := content, written := false }

/-- A register that holds a value written since reset. -/
def Reg.holding (v : Word) : Reg := { val := v, written := true }

/-- The state right after reset (R37, R281). `CFG`, `ERR`, `ERRCODE` and `ERRCMD` are the spec's; `ENG` and `NDOORS`
are log 4, `S` log 5, `ARG0`, `RES` and the table log 3, the host's side log 1 and 2. -/
def State.reset : State where
  bank := { s0 := Config.sAtReset 0, s1 := Config.sAtReset 1, s2 := Config.sAtReset 2, s3 := Config.sAtReset 3 }
  eng := .mcg128
  cfg := false
  ndoors := 0
  arg0 := Reg.unwritten Config.arg0AtReset
  res := Reg.unwritten Config.resAtReset
  err := false
  errcode := 0
  errcmd := 0
  cdf := Vector.ofFn fun i => Reg.unwritten (Config.cdfAtReset i.val)
  hostOps := []
  hostRead := none

end Sys2Proof.Machine
end

