-- ==== Sys2Proof/Machine/Parameters.lean ====
section
/-! DEFINITION. The constants of spec/00_scope.md R5 and the parameter values this machine is built with (the defaults
of R5 and of spec/92_eei_decisions.md section 6; log 6). -/

namespace Sys2Proof.Machine

/-- `SEED_CONST` (R5, R232). -/
def seedConst : Word := 0xC68FA87D83F72455

/-- `MCG_MULT_LO = 15750249268501108917` (R5, R122). -/
def mcgMultLo : Word := 0xDA942042E4DD58B5

/-- `MCG_WARMUP` (R5, R130). -/
def mcgWarmup : Nat := 20

/-- `SFC_WARMUP` (R5, R130). -/
def sfcWarmup : Nat := 12

/-- The parameter values of this machine: the defaults of R5. -/
def params : Config where
  mcgMultHi := 0
  mcgOutPost := true
  mcgSeedMap := fun seed => (0 : Word) ++ seed
  sfcSeedMap := fun seed => (seed, seed, seed)
  sfcCtrInit := 1
  pcgCtrInit := 1
  pcgCtrMult := 0x5851F42D4C957F2D
  pcgCtrInc := 0x14057B7EF767814F
  maskW := 32
  cdfDepth := 64
  retryCap := none
  forcedDraws := false
  stayIsOne := true

/-- The `rng_id` codes: MCG128 = 0, SFCCounter = 1, SFCPCGCounter = 2 (R5, R23). -/
def Engine.code : Engine → BitVec 2
  | .mcg128 => 0
  | .sfcCounter => 1
  | .sfcPcgCounter => 2

/-- The engine an `rng_id` selects, if it is in the enumeration (R230, R231). -/
def engineOfId (id : BitVec 8) : Option Engine :=
  match id.toNat with
  | 0 => some .mcg128
  | 1 => some .sfcCounter
  | 2 => some .sfcPcgCounter
  | _ => none

end Sys2Proof.Machine
end

