-- ==== Sys2Proof/Machine/Flags.lean ====
section
/-! DEFINITION. The status the block composes from its state (spec/10_state.md R30). The block has no condition codes
and no arithmetic flags (R32): `CFG` and `ERR` are the only status bits, written by `CONFIG`, by error entry and by
`ERRCLR` (Machine/Ops.lean). -/

namespace Sys2Proof.Machine

/-- `STATUS[5:4]`: `ENG`, which reads as 0 while `CFG = 0` (R30, R37). -/
def engField (s : State) : BitVec 2 := if s.cfg then s.eng.code else 0

/-- The word a read of `STATUS` returns (R30): `CFG` in bit 0, `ERR` in bit 1, `ENG` in bits 5:4, `ERRCODE` in bits
15:8, every other bit 0. -/
def statusWord (s : State) : Word :=
  0#48 ++ s.errcode ++ 0#2 ++ engField s ++ 0#2 ++ BitVec.ofBool s.err ++ BitVec.ofBool s.cfg

end Sys2Proof.Machine
end

