-- ==== Sys2Proof/Machine/Bits.lean ====
section
/-! DEFINITION. The bit helpers of spec/00_scope.md R7, R8 and spec/20_memory.md R67. -/

namespace Sys2Proof.Machine

/-- `w[63:32]`. -/
def hi32 (w : Word) : U32 := w.extractLsb' 32 32

/-- `w[31:0]`. -/
def lo32 (w : Word) : U32 := w.setWidth 32

/-- "Top 6 bits" of a word, `w[63:58]` (R67), as the rotate amount it stands for. -/
def top6 (w : Word) : Nat := (w.extractLsb' 58 6).toNat

/-- `mul32x32(a, b)` (R8): the full product of two `u32`, which cannot overflow a `u64`. -/
def mul32x32 (a b : U32) : Word := a.setWidth 64 * b.setWidth 64

/-- `shl64(a, n)` (R8). -/
def shl64 (a : Word) (n : Nat) : Word := a <<< n

/-- `shr64(a, n)` (R8), logical. -/
def shr64 (a : Word) (n : Nat) : Word := a >>> n

/-- The one-hot mask of door `i` (spec/46_trial.md section 1: `bit(i) = shl(1, i)`). -/
def doorBit (i : Nat) : U32 := 1#32 <<< i

/-- The number of one bits among bits `0 .. n-1` of a mask. -/
def popcountBelow (m : U32) : Nat → Nat
  | 0 => 0
  | n + 1 => popcountBelow m n + (if m.getLsbD n then 1 else 0)

/-- `popcount(m)` (R8). -/
def popcount (m : U32) : Nat := popcountBelow m 32

end Sys2Proof.Machine
end

