-- ==== Sys2Proof/Machine/Float.lean ====
section
/-! DEFINITION. The two floating-point primitives of spec/00_scope.md R8 on IEEE-754 binary64 patterns (layout
spec/20_memory.md R66): `f64_lt` and `f64_sub`, round to nearest, ties to even (log 14). -/

namespace Sys2Proof.Machine

/-- The pattern of `1.0` (R66). -/
def f64One : Word := 0x3FF0000000000000

/-- The pattern of `+infinity`. -/
def f64Inf : Word := 0x7FF0000000000000

/-- Bit 63, the sign (R66). -/
def f64Neg (w : Word) : Bool := w.msb

/-- Bits 62:0 as a number: patterns of one sign order by it. -/
def f64Mag (w : Word) : Nat := (w.setWidth 63).toNat

/-- Bits 62:52, the biased exponent (R66). -/
def f64Exp (w : Word) : Nat := (w.extractLsb' 52 11).toNat

/-- Bits 51:0, the fraction (R66). -/
def f64Frac (w : Word) : Nat := (w.extractLsb' 0 52).toNat

/-- The pattern encodes a NaN. -/
def f64IsNaN (w : Word) : Bool := f64Mag w > 0x7FF0000000000000

/-- The pattern encodes an infinity. -/
def f64IsInf (w : Word) : Bool := f64Mag w = 0x7FF0000000000000

/-- The order of the non-NaN patterns: both zeros are 0. -/
def f64Key (w : Word) : Int := if f64Neg w then - (f64Mag w : Int) else f64Mag w

/-- `f64_lt` (R8): IEEE-754 `compareQuietLess`, false on a NaN and on `-0 < +0`. -/
def f64Lt (a b : Word) : Bool := !f64IsNaN a && !f64IsNaN b && decide (f64Key a < f64Key b)

/-- The significand of a finite pattern, in units of `2^(f64Scale w - 1075)`. -/
def f64Sig (w : Word) : Nat := if f64Exp w = 0 then f64Frac w else 2 ^ 52 + f64Frac w

/-- The exponent field a finite pattern is scaled by: 1 for a subnormal. -/
def f64Scale (w : Word) : Nat := max (f64Exp w) 1

/-- The signed significand of a finite pattern. -/
def f64Signed (w : Word) : Int := if f64Neg w then - (f64Sig w : Int) else f64Sig w

/-- `m` divided by `2^d`, rounded to nearest, ties to even. -/
def roundShift (m d : Nat) : Nat :=
  let q := m / 2 ^ d
  let r := m % 2 ^ d
  if 2 * r > 2 ^ d ∨ (2 * r = 2 ^ d ∧ q % 2 = 1) then q + 1 else q

/-- The magnitude pattern nearest to `m * 2^(e - 1075)`, for `m ≠ 0` and `e ≥ 1`: 53 significant bits, fewer below the
normal range, infinity above it. -/
def packMag (m e : Nat) : Nat :=
  let e' := max (e + m.log2 - 52) 1
  let sig := if e' ≤ e then m * 2 ^ (e - e') else roundShift m (e' - e)
  min ((e' - 1) * 2 ^ 52 + sig) 0x7FF0000000000000

/-- A pattern from its sign and its magnitude bits. -/
def f64Make (neg : Bool) (mag : Nat) : Word := BitVec.ofBool neg ++ BitVec.ofNat 63 mag

/-- The difference of two finite patterns, computed exactly and rounded once. An exact zero is `+0`, but for
`(-0) - (+0)`, which is `-0`. -/
def f64SubFinite (a b : Word) : Word :=
  let e := min (f64Scale a) (f64Scale b)
  let v := f64Signed a * 2 ^ (f64Scale a - e) - f64Signed b * 2 ^ (f64Scale b - e)
  if v = 0 then f64Make (f64Neg a && !f64Neg b && decide (f64Mag a = 0)) 0
  else f64Make (decide (v < 0)) (packMag v.natAbs e)

/-- `f64_sub(a, b)` (R8). -/
def f64Sub (a b : Word) : Word :=
  if f64IsNaN a || f64IsNaN b then Config.nanPattern
  else if f64IsInf a then (if f64IsInf b && f64Neg a == f64Neg b then Config.nanPattern else a)
  else if f64IsInf b then f64Make (!f64Neg b) 0x7FF0000000000000
  else f64SubFinite a b

end Sys2Proof.Machine
end

