-- ==== Sys2Proof/Machine/Operands.lean ====
section
/-! DEFINITION. The operand forms of the commands (spec/30_encoding.md R82): the fields of the word reach a meaning as
arguments; here are the operands that are not part of the word: `ARG0` whole, `ARG0` as a DoorMask, the rotate amount
of `sub`, and the CDF table with its contract (spec/44_cdf.md R182). -/

namespace Sys2Proof.Machine

/-- The rotate amount `sub[5:0]`, in `0 .. 63` (R82). -/
def rotateAmount (sub : BitVec 8) : Nat := (sub.extractLsb' 0 6).toNat

/-- The operand `ARG0` at 64 bits (R26, R82). -/
def arg0Word (s : State) : Word := s.arg0.val

/-- The operand `ARG0[MASK_W-1:0]`; the bits above are ignored (R39, R82). -/
def arg0Mask (c : Config) (s : State) : U32 := (s.arg0.val.setWidth c.maskW).setWidth 32

/-- The entries `CDF[0 .. m-2]` that a table form with operand `m` reads (R29, R181). -/
def tableEntries (s : State) (m : Nat) : List Word := (s.cdf.toList.take (m - 1)).map (·.val)

/-- An entry is in the open interval `(0,1)` (R182). -/
def inUnitInterval (x : Word) : Bool := f64Lt 0 x && f64Lt x f64One

/-- The entries are "monotonically non-decreasing" (R182). -/
def nonDecreasing : List Word → Bool
  | [] => true
  | [_] => true
  | x :: y :: rest => !f64Lt y x && nonDecreasing (y :: rest)

/-- The table's contract (R182). The block does not check it; the model stops where it is broken (U1). -/
def tableWellFormed (entries : List Word) : Bool := entries.all inUnitInterval && nonDecreasing entries

end Sys2Proof.Machine
end

