-- ==== Sys2Proof/Machine/Ops.lean ====
section
/-! DEFINITION. The named operations over the state: writing its elements, the error entry and the return from it
(spec/60_exceptions.md R253, R255), the common prologue of the commands (spec/30_encoding.md R88), the register space
as the host reads and writes it (spec/20_memory.md R51, R57), and reset (spec/70_reset_and_hazards.md R280). -/

namespace Sys2Proof.Machine

/-- `RES <- v` (R27). -/
def State.setRes (s : State) (v : Word) : State := { s with res := Reg.holding v }

/-- `S <- b` (R21). -/
def State.setBank (s : State) (b : Bank) : State := { s with bank := b }

/-- `ARG0 <- v` (R26, R51). -/
def State.setArg0 (s : State) (v : Word) : State := { s with arg0 := Reg.holding v }

/-- `CDF[i] <- v` (R29, R51). -/
def State.setCdf (s : State) (i : Fin 64) (v : Word) : State := { s with cdf := s.cdf.set i (Reg.holding v) }

/-- `ENG <- e`, `NDOORS <- n`, `CFG <- 1` (R230). -/
def State.setConfig (s : State) (e : Engine) (n : U32) : State := { s with eng := e, ndoors := n, cfg := true }

/-- The host operation at the head of the queue is taken off it, and nothing has been returned to the host yet. -/
def State.withOps (s : State) (rest : List HostOp) : State := { s with hostOps := rest, hostRead := none }

/-- The value an `RD` returns to the host (R52). -/
def State.answer (s : State) (v : Word) : State := { s with hostRead := some v }

/-- The six synchronous errors (R250). -/
inductive Error where
  /-- `CONFIG` with a door count outside `3 .. MASK_W`. -/
  | configDoors
  /-- `CONFIG` with an `rng_id` that is not 0, 1 or 2. -/
  | configRng
  /-- A word that selects no row of the opcode map. -/
  | illegal
  /-- A command that needs an engine while `CFG = 0`. -/
  | notReady
  /-- An operand outside the function's domain. -/
  | range
  /-- `CONFIG` while `CFG = 1`. -/
  | locked
deriving DecidableEq, Repr

/-- The codes of R250. -/
def errorCode : Error → BitVec 8
  | .configDoors => 1
  | .configRng => 2
  | .illegal => 3
  | .notReady => 4
  | .range => 5
  | .locked => 6

/-- `raise E(cw)` (R253): the one error entry. `ERR`, `ERRCODE` and `ERRCMD` are written and nothing else changes. -/
def raise (e : Error) (cw : Word) (s : State) : State :=
  { s with err := true, errcode := errorCode e, errcmd := cw }

/-- The return from the error state (R234, R255). -/
def clearError (s : State) : State := { s with err := false, errcode := 0, errcmd := 0 }

/-- R88 step 1, R254: while an error is pending the command is discarded. -/
def unlessPending (s : State) (k : Result) : Result := if s.err then .next s else k

/-- R88 step 5: a command that needs an engine raises `E_NOTREADY` while `CFG = 0`. -/
def whenConfigured (i : Instr) (s : State) (k : Result) : Result :=
  if s.cfg then k else .next (raise .notReady (encode i) s)

/-- R88 step 6: an operand outside the command's domain raises `E_RANGE`. -/
def whenInRange (inRange : Bool) (i : Instr) (s : State) (k : Result) : Result :=
  if inRange then k else .next (raise .range (encode i) s)

/-- The prologue of a command that needs an engine and has an operand check (R88 steps 1, 5, 6). -/
def drawing (inRange : Bool) (i : Instr) (s : State) (k : Result) : Result :=
  unlessPending s (whenConfigured i s (whenInRange inRange i s k))

/-- What a computation that draws from the engine ends in: a value and the bank after its draws, or a stop. -/
inductive Drawn (α : Type) where
  /-- The value, and `S` after the draws. -/
  | done (a : α) (b : Bank)
  /-- The computation has no result. -/
  | stop (f : Fault)
deriving DecidableEq, Repr

/-- One drawing computation after another (spec/46_trial.md R210: in order, nothing drawn ahead). -/
def thenDraw {α β : Type} (x : Drawn α) (k : α → Bank → Drawn β) : Drawn β :=
  match x with
  | .done a b => k a b
  | .stop f => .stop f

/-- The end of a command that draws: `S` and `RES` are written (R27). -/
def finish (s : State) (x : Drawn Word) : Result :=
  match x with
  | .done v b => .next ((s.setBank b).setRes v)
  | .stop f => .fault f

/-- The table index `i` of register index `0x40 + i` (R51): its low six bits. -/
def cdfIndex (idx : RegIndex) : Fin 64 := (idx.setWidth 6).toFin

/-- The index names an entry of the CDF table (R51; `CDF_DEPTH` entries, R29). -/
def isCdfIndex (c : Config) (idx : RegIndex) : Bool := 64 ≤ idx.toNat && idx.toNat < 64 + c.cdfDepth

/-- What a host read of a register returns (R51), and `none` for a reserved index. -/
def readReg (c : Config) (idx : RegIndex) (s : State) : Option Word :=
  match idx.toNat with
  | 0x00 => some 0
  | 0x01 => some (statusWord s)
  | 0x02 => some s.arg0.val
  | 0x03 => some s.res.val
  | 0x04 => some s.errcmd
  | 0x05 => some (if s.cfg then s.ndoors.setWidth 64 else 0)
  | _ => if isCdfIndex c idx then some (s.cdf.get (cdfIndex idx)).val else none

/-- What a host write of a register other than `CMD` does (R51, R57), and `none` for a reserved index. -/
def writeReg (c : Config) (idx : RegIndex) (v : Word) (s : State) : Option State :=
  match idx.toNat with
  | 0x01 => some s
  | 0x02 => some (s.setArg0 v)
  | 0x03 => some s
  | 0x04 => some s
  | 0x05 => some s
  | _ => if isCdfIndex c idx then some (s.setCdf (cdfIndex idx) v) else none

/-- Reset (R280, R281): nothing of the block's state is kept. The queue is the platform's and stays. -/
def resetBlock (s : State) : State := { State.reset with hostOps := s.hostOps }

end Sys2Proof.Machine
end

