-- ==== Sys2Proof/Machine/BitRotate.lean ====
section
/-! DEFINITION. BitRotate (spec/40_bitrotate.md): the primitive, `ROTL`, `ROTR`. -/

namespace Sys2Proof.Machine

/-- `rotl64(a, n)`, `0 <= n <= 63` (R110). -/
def rotl64 (a : Word) (n : Nat) : Word := if n = 0 then a else shl64 a n ||| shr64 a (64 - n)

/-- `rotr64(a, n)`, `0 <= n <= 63` (R110). -/
def rotr64 (a : Word) (n : Nat) : Word := if n = 0 then a else shr64 a n ||| shl64 a (64 - n)

/-- `ROTL k` (R111): `RES <- rotl64(ARG0, cw[21:16])`. Needs no configuration. -/
def execRotl (sub : BitVec 8) (s : State) : Result :=
  unlessPending s (.next (s.setRes (rotl64 (arg0Word s) (rotateAmount sub))))

/-- `ROTR k` (R112): `RES <- rotr64(ARG0, cw[21:16])`. Needs no configuration. -/
def execRotr (sub : BitVec 8) (s : State) : Result :=
  unlessPending s (.next (s.setRes (rotr64 (arg0Word s) (rotateAmount sub))))

end Sys2Proof.Machine
end

