-- ==== Sys2Proof/Machine/Engines.lean ====
section
/-! DEFINITION. The PRNG engines (spec/41_prng_engines.md): the three step functions, seeding and warm-up, `SEED`,
`NEXT`. -/

namespace Sys2Proof.Machine

/-- `MCG_MULT = {MCG_MULT_HI, MCG_MULT_LO}` (R122). -/
def mcgMult (c : Config) : U128 := c.mcgMultHi ++ mcgMultLo

/-- `{S[1], S[0]}` (R22). -/
def mcgState (b : Bank) : U128 := b.s1 ++ b.s0

/-- The bank with `{S[1], S[0]}` replaced; `S[2]` and `S[3]` are not written (R124, R127). -/
def Bank.setMcg (b : Bank) (t : U128) : Bank := { b with s0 := t.extractLsb' 0 64, s1 := t.extractLsb' 64 64 }

/-- MCG128's output function: the XOR-fold rotated right by the top six bits of the high half (R124). -/
def mcgOutput (b : Bank) : Word := rotr64 (b.s1 ^^^ b.s0) (top6 b.s1)

/-- `StepMCG128()` (R124). `MCG_OUT_POST` false takes the output from the state before the multiplication (D11). -/
def stepMCG128 (c : Config) (b : Bank) : Word × Bank :=
  let b' := b.setMcg (mcgState b * mcgMult c)
  (mcgOutput (if c.mcgOutPost then b' else b), b')

/-- The part of a step that the two SFC engines share (R125, R126): `f` is the counter feed, `ctr` the counter's next
value. Every right-hand side reads the bank from before the step. -/
def sfcUpdate (b : Bank) (f ctr : Word) : Word × Bank :=
  let tmp := b.s0 + b.s1 + f
  (tmp, { s0 := b.s1 ^^^ shr64 b.s1 11, s1 := b.s2 + shl64 b.s2 3, s2 := rotl64 b.s2 24 + tmp, s3 := ctr })

/-- `StepSFC()` (R125): the feed is the counter before the increment. -/
def stepSFC (b : Bank) : Word × Bank := sfcUpdate b b.s3 (b.s3 + 1)

/-- `StepSFCPCG()` (R126): the feed is the counter rotated right by its own top six bits, before the advance. -/
def stepSFCPCG (c : Config) (b : Bank) : Word × Bank :=
  sfcUpdate b (rotr64 b.s3 (top6 b.s3)) (b.s3 * c.pcgCtrMult + c.pcgCtrInc)

/-- `Next()` (R133): one step of the selected engine, its output and the bank after it. -/
def nextWord (c : Config) (e : Engine) (b : Bank) : Word × Bank :=
  match e with
  | .mcg128 => stepMCG128 c b
  | .sfcCounter => stepSFC b
  | .sfcPcgCounter => stepSFCPCG c b

/-- The bank after `n` steps, every output discarded. -/
def bankAfter (c : Config) (e : Engine) : Nat → Bank → Bank
  | 0, b => b
  | n + 1, b => bankAfter c e n (nextWord c e b).2

/-- The initial state of an engine from a seed, before warm-up (R127, R128, R129). -/
def seedInit (c : Config) (e : Engine) (seed : Word) (b : Bank) : Bank :=
  match e with
  | .mcg128 => b.setMcg (c.mcgSeedMap seed)
  | .sfcCounter => let m := c.sfcSeedMap seed; { s0 := m.1, s1 := m.2.1, s2 := m.2.2, s3 := c.sfcCtrInit }
  | .sfcPcgCounter => let m := c.sfcSeedMap seed; { s0 := m.1, s1 := m.2.1, s2 := m.2.2, s3 := c.pcgCtrInit }

/-- The warm-up count of an engine (R130). -/
def warmup : Engine → Nat
  | .mcg128 => mcgWarmup
  | .sfcCounter => sfcWarmup
  | .sfcPcgCounter => sfcWarmup

/-- `Seed(s)` (R130): the initial state, then the warm-up. -/
def seedBank (c : Config) (e : Engine) (seed : Word) (b : Bank) : Bank :=
  bankAfter c e (warmup e) (seedInit c e seed b)

/-- The low 64 bits and the high 64 bits of `lo * m` by four 32x32 partial products with carry propagation, and from
them the new halves of the state (R123, the reading of the multiplication without a 128-bit integer, for
`MCG_MULT_HI = 0`). The machine computes `mul128` directly. -/
def mcgPartialProducts (lo hi m : Word) : Word × Word :=
  let p00 := mul32x32 (lo32 lo) (lo32 m)
  let p01 := mul32x32 (lo32 lo) (hi32 m)
  let p10 := mul32x32 (hi32 lo) (lo32 m)
  let p11 := mul32x32 (hi32 lo) (hi32 m)
  let mid := shr64 p00 32 + (lo32 p01).setWidth 64 + (lo32 p10).setWidth 64
  let prodHi := p11 + shr64 p01 32 + shr64 p10 32 + shr64 mid 32
  (lo32 mid ++ lo32 p00, prodHi + hi * m)

/-- `SEED` (R131): `Seed(ARG0)`. -/
def execSeed (s : State) : Result :=
  unlessPending s (whenConfigured .seed s (.next (s.setBank (seedBank params s.eng (arg0Word s) s.bank))))

/-- `NEXT` (R132): `RES <- Next()`. -/
def execNext (s : State) : Result :=
  let d := nextWord params s.eng s.bank
  drawing true .next s (finish s (.done d.1 d.2))

end Sys2Proof.Machine
end

