-- ==== Sys2Proof/Machine/Configure.lean ====
section
/-! DEFINITION. Configuration and error clear (spec/47_config.md): `CONFIG`, `ERRCLR`. -/

namespace Sys2Proof.Machine

/-- `num_doors` is accepted iff `3 <= num_doors <= MASK_W` (R231). -/
def doorsOk (c : Config) (n : U32) : Bool := 3 ≤ n.toNat && n.toNat ≤ c.maskW

/-- A successful `CONFIG` (R230, R232): the engine is selected, then seeded with the fixed constant. -/
def configure (c : Config) (n : U32) (e : Engine) (s : State) : State :=
  (s.setConfig e n).setBank (seedBank c e seedConst s.bank)

/-- `CONFIG n, e` (R230): `E_LOCKED`, `E_CONFIG_DOORS`, `E_CONFIG_RNG` in this order (R252). -/
def execConfig (n : U32) (id : BitVec 8) (s : State) : Result :=
  unlessPending s
    (if s.cfg then .next (raise .locked (encode (.config n id)) s)
     else if doorsOk params n = false then .next (raise .configDoors (encode (.config n id)) s)
     else match engineOfId id with
       | none => .next (raise .configRng (encode (.config n id)) s)
       | some e => .next (configure params n e s))

/-- `ERRCLR` (R234): the only command executed while an error is pending. -/
def execErrclr (s : State) : Result := .next (clearError s)

end Sys2Proof.Machine
end

