-- ==== Sys2Proof/Machine/Uniform.lean ====
section
/-! DEFINITION. Uniform derivation (spec/42_uniform.md): `Rand32`, `Rand52`, `Frand` and their commands. -/

namespace Sys2Proof.Machine

/-- `Rand32()` (R150): one draw, bits 63:32. -/
def rand32 (c : Config) (e : Engine) (b : Bank) : U32 × Bank :=
  let d := nextWord c e b
  (hi32 d.1, d.2)

/-- `Rand52()` (R151): one draw, bits 63:12. -/
def rand52 (c : Config) (e : Engine) (b : Bank) : BitVec 52 × Bank :=
  let d := nextWord c e b
  (d.1.extractLsb' 12 52, d.2)

/-- The double `1 + d * 2^-52`, made by placing bits (R152, R157): sign 0, exponent `0x3FF`, fraction `d`. -/
def oneToTwo (d : BitVec 52) : Word := 0#1 ++ 0x3FF#11 ++ d

/-- `Frand()` (R152): one draw, a double in `[0,1)`. -/
def frand (c : Config) (e : Engine) (b : Bank) : Word × Bank :=
  let d := rand52 c e b
  (f64Sub (oneToTwo d.1) f64One, d.2)

/-- `RAND32` (R154). -/
def execRand32 (s : State) : Result :=
  let d := rand32 params s.eng s.bank
  drawing true .rand32 s (finish s (.done (d.1.setWidth 64) d.2))

/-- `RAND52` (R155). -/
def execRand52 (s : State) : Result :=
  let d := rand52 params s.eng s.bank
  drawing true .rand52 s (finish s (.done (d.1.setWidth 64) d.2))

/-- `FRAND` (R156). -/
def execFrand (s : State) : Result :=
  let d := frand params s.eng s.bank
  drawing true .frand s (finish s (.done d.1 d.2))

end Sys2Proof.Machine
end

