-- ==== Sys2Proof/Machine/Bounded.lean ====
section
/-! DEFINITION. The bounded sampler (spec/43_bounded.md) and `BOUNDED`. -/

namespace Sys2Proof.Machine

/-- The threshold `t = (2^32 - range) mod range` (R165, R166). -/
def threshold (range : U32) : U32 := BitVec.ofNat 32 ((2 ^ 32 - range.toNat) % range.toNat)

/-- How many redraws the loop is run for: the cap where one is configured (U4), and else the number of contents the
four words of `S` can have. After that many rejected redraws a content has come back, so every later draw is rejected
too and the command never ends (R284; log 7). -/
def redrawFuel (c : Config) : Nat :=
  match c.retryCap with
  | none => 2 ^ 256
  | some n => n

/-- What running out of redraws means (U3, U4). -/
def redrawStop (c : Config) : Fault :=
  match c.retryCap with
  | none => .neverCompletes
  | some _ => .retryCapExceeded

/-- A step left the words of the selected engine as they were (R21: MCG128 uses `S[0]` and `S[1]` only). -/
def unmoved (e : Engine) (b b' : Bank) : Bool :=
  match e with
  | .mcg128 => b'.s0 == b.s0 && b'.s1 == b.s1
  | .sfcCounter => b' == b
  | .sfcPcgCounter => b' == b

/-- The loop `while low < t` of R165, entered after a rejected draw. A rejected draw that leaves `S` as it was comes
again for ever, so the loop is given up at once (log 7). -/
def redraw (c : Config) (e : Engine) (range t : U32) : Nat → Bank → Drawn U32
  | 0, _ => .stop (redrawStop c)
  | n + 1, b =>
    let d := rand32 c e b
    let m := mul32x32 d.1 range
    if lo32 m < t then
      if unmoved e b d.2 then .stop (redrawStop c) else redraw c e range t n d.2
    else .done (hi32 m) d.2

/-- `Bounded(range)` (R165), Lemire's multiply-high rejection. -/
def bounded (c : Config) (e : Engine) (range : U32) (b : Bank) : Drawn U32 :=
  let d := rand32 c e b
  let m := mul32x32 d.1 range
  if lo32 m < range ∧ lo32 m < threshold range then redraw c e range (threshold range) (redrawFuel c) d.2
  else .done (hi32 m) d.2

/-- A `u32` result, zero-extended to the result register. -/
def zext64 (x : Drawn U32) : Drawn Word := thenDraw x fun v b => .done (v.setWidth 64) b

/-- `BOUNDED r` (R167). -/
def execBounded (range : U32) (s : State) : Result :=
  drawing (range != 0) (.bounded range) s (finish s (zext64 (bounded params s.eng range s.bank)))

end Sys2Proof.Machine
end

