-- ==== Sys2Proof/Machine/Cdf.lean ====
section
/-! DEFINITION. The CDF sampler (spec/44_cdf.md), `SAMPLE` and `SAMPLE.C`. -/

namespace Sys2Proof.Machine

/-- The scan of R181: the index of the first entry greater than `r`, counted from `i`; past the last entry, the index
after it. -/
def scanTable (r : Word) : List Word → Nat → Nat
  | [], i => i
  | x :: rest, i => if f64Lt r x then i else scanTable r rest (i + 1)

/-- `SampleCdf(m, 1)` over the entries `CDF[0 .. m-2]` (R181): one draw, then the scan. A table that breaks its contract
has no result (R182, U1). -/
def sampleTable (c : Config) (e : Engine) (entries : List Word) (b : Bank) : Drawn U32 :=
  if tableWellFormed entries then
    let d := frand c e b
    .done (BitVec.ofNat 32 (scanTable d.1 entries 0)) d.2
  else .stop .malformedTable

/-- `SAMPLE.C`'s domain: `2 <= m <= CDF_DEPTH + 1` (R184). -/
def tableSizeOk (c : Config) (m : U32) : Bool := 2 ≤ m.toNat && m.toNat ≤ c.cdfDepth + 1

/-- `SAMPLE m` (R183): `SampleCdf(m, 0) = Bounded(m)` (R180). -/
def execSample (m : U32) (s : State) : Result :=
  drawing (m != 0) (.sample m) s (finish s (zext64 (bounded params s.eng m s.bank)))

/-- `SAMPLE.C m` (R184). -/
def execSampleC (m : U32) (s : State) : Result :=
  drawing (tableSizeOk params m) (.sampleC m) s
    (finish s (zext64 (sampleTable params s.eng (tableEntries s m.toNat) s.bank)))

end Sys2Proof.Machine
end

