-- ==== Sys2Proof/Machine/DoorSet.lean ====
section
/-! DEFINITION. The door-set sampler (spec/45_doorset.md), `PICK` and `PICK.C`. -/

namespace Sys2Proof.Machine

/-- The scan of R196 over the positions `pos .. pos+left-1`, `n` set bits having been passed: the position of set bit
`k`, and `none` where the scan runs off the end of the mask. -/
def scanMask (mask : U32) (k : Nat) : (left pos n : Nat) → Option Nat
  | 0, _, _ => none
  | left + 1, pos, n =>
    if mask.getLsbD pos then (if n = k then some pos else scanMask mask k left (pos + 1) (n + 1))
    else scanMask mask k left (pos + 1) n

/-- `KthSetBit(mask, k)` (R196), defined for `k < popcount(mask)`. -/
def kthSetBit (c : Config) (mask : U32) (k : Nat) : Option Nat := scanMask mask k c.maskW 0 0

/-- A set bit that the scan did not find: reached only when the precondition of R197 is broken (U2). -/
def foundDoor (pos : Option Nat) (b : Bank) : Drawn Nat :=
  match pos with
  | some p => .done p b
  | none => .stop .populationMismatch

/-- `PickFromMask(mask, p, 0)` (R195): the ordinal is drawn first, the scan draws nothing. -/
def pickFromMask (c : Config) (e : Engine) (mask p : U32) (b : Bank) : Drawn Nat :=
  thenDraw (bounded c e p b) fun k b' => foundDoor (kthSetBit c mask k.toNat) b'

/-- `PickFromMask(mask, p, 1)` (R195) over the entries `CDF[0 .. p-2]`. -/
def pickFromMaskByTable (c : Config) (e : Engine) (mask : U32) (entries : List Word) (b : Bank) : Drawn Nat :=
  thenDraw (sampleTable c e entries b) fun k b' => foundDoor (kthSetBit c mask k.toNat) b'

/-- `{ zext_24(0), pos[7:0], shl(1, pos)[31:0] }` (R198). -/
def pickResult (pos : Nat) : Word := 0#24 ++ BitVec.ofNat 8 pos ++ doorBit pos

/-- The pick's position, as the result word (R198). -/
def pickWord (x : Drawn Nat) : Drawn Word := thenDraw x fun pos b => .done (pickResult pos) b

/-- The caller's precondition `population = popcount(mask)`: without it the command has no result (R197, U2). -/
def whenPopulation (mask p : U32) (x : Drawn Nat) : Drawn Nat :=
  if p.toNat = popcount mask then x else .stop .populationMismatch

/-- `PICK`'s domain: `1 <= p <= MASK_W` (R198). -/
def populationOk (c : Config) (p : U32) : Bool := 1 ≤ p.toNat && p.toNat ≤ c.maskW

/-- `PICK.C`'s domain: `2 <= p <= MASK_W` (R199). -/
def tablePopulationOk (c : Config) (p : U32) : Bool := 2 ≤ p.toNat && p.toNat ≤ c.maskW

/-- `PICK p` (R198). -/
def execPick (p : U32) (s : State) : Result :=
  let mask := arg0Mask params s
  drawing (populationOk params p) (.pick p) s
    (finish s (pickWord (whenPopulation mask p (pickFromMask params s.eng mask p s.bank))))

/-- `PICK.C p` (R199). -/
def execPickC (p : U32) (s : State) : Result :=
  let mask := arg0Mask params s
  drawing (tablePopulationOk params p) (.pickC p) s
    (finish s (pickWord (whenPopulation mask p
      (pickFromMaskByTable params s.eng mask (tableEntries s p.toNat) s.bank))))

end Sys2Proof.Machine
end

