-- ==== Sys2Proof/Machine/Trial.lean ====
section
/-! DEFINITION. The game engine (spec/46_trial.md): one trial, `TRIAL`. -/

namespace Sys2Proof.Machine

/-- The universe mask `U = 2^N - 1` (spec/10_state.md R39). -/
def allDoors (n : Nat) : U32 := BitVec.ofNat 32 (2 ^ n - 1)

/-- The doors Monty may reveal (R212). -/
def eligible (n car pick1 : Nat) : U32 :=
  if car = pick1 then allDoors n &&& ~~~doorBit pick1 else allDoors n &&& ~~~doorBit pick1 &&& ~~~doorBit car

/-- The number of doors Monty may reveal (R212). -/
def eligiblePop (n car pick1 : Nat) : Nat := if car = pick1 then n - 1 else n - 2

/-- The doors a switching contestant may take (R214). -/
def candidates (n pick1 revealed : Nat) : U32 := allDoors n &&& ~~~doorBit pick1 &&& ~~~doorBit revealed

/-- The choice of a door among `pop` (R212, R214): a forced door consumes no draw, unless `FORCED_DRAWS` (D30, D31;
log 17). -/
def chooseDoor (c : Config) (e : Engine) (mask : U32) (pop : Nat) (b : Bank) : Drawn Nat :=
  if pop = 1 ∧ c.forcedDraws = false then foundDoor (kthSetBit c mask 0) b
  else pickFromMask c e mask (BitVec.ofNat 32 pop) b

/-- The coin's meaning (R213): 1 is Stay, unless `STAY_IS_ONE` is false (D32). -/
def coinStays (c : Config) (coin : U32) : Bool := (coin == 1) == c.stayIsOne

/-- `outcome = (if stay = 1 then 2 else 0) + (if final = car then 0 else 1)` (R215, R217, R40). -/
def outcomeCode (stay : Bool) (final car : Nat) : BitVec 2 :=
  (if stay then 2#2 else 0#2) + (if final = car then 0#2 else 1#2)

/-- The layout of `RES` after `TRIAL` (R216). -/
def trialResult (car pick1 revealed final : Nat) (stay : Bool) : Word :=
  0#24 ++ BitVec.ofNat 8 final ++ BitVec.ofNat 8 revealed ++ BitVec.ofNat 8 pick1 ++ BitVec.ofNat 8 car ++ 0#6
    ++ outcomeCode stay final car

/-- The final pick (R214). -/
def finalPick (c : Config) (e : Engine) (n pick1 revealed : Nat) (stay : Bool) (b : Bank) : Drawn Nat :=
  if stay then .done pick1 b else chooseDoor c e (candidates n pick1 revealed) (n - 2) b

/-- One trial with `N` doors (R210 to R215, R217): car, first pick, reveal, coin, final pick, in this order. -/
def trial (c : Config) (e : Engine) (doors : U32) (b : Bank) : Drawn Word :=
  let n := doors.toNat
  thenDraw (bounded c e doors b) fun car b =>
  thenDraw (bounded c e doors b) fun pick1 b =>
  thenDraw (chooseDoor c e (eligible n car.toNat pick1.toNat) (eligiblePop n car.toNat pick1.toNat) b) fun revealed b =>
  thenDraw (bounded c e 2 b) fun coin b =>
  thenDraw (finalPick c e n pick1.toNat revealed (coinStays c coin) b) fun final b =>
  .done (trialResult car.toNat pick1.toNat revealed final (coinStays c coin)) b

/-- `TRIAL` (R217). -/
def execTrial (s : State) : Result :=
  drawing true .trial s (finish s (trial params s.eng s.ndoors s.bank))

end Sys2Proof.Machine
end

