-- ==== Sys2Proof/Machine/Dispatch.lean ====
section
/-! DEFINITION. The meaning of every command, one arm per constructor of `Instr` (spec/30_encoding.md R83). -/

namespace Sys2Proof.Machine

/-- The command `i` at the state `s`. -/
def exec (i : Instr) (s : State) : Host.Outcome State Fault Refusal :=
  match i with
  | .config n id => Sys2Proof.Machine.execConfig n id s
  | .seed => Sys2Proof.Machine.execSeed s
  | .errclr => Sys2Proof.Machine.execErrclr s
  | .rotl sub => Sys2Proof.Machine.execRotl sub s
  | .rotr sub => Sys2Proof.Machine.execRotr sub s
  | .next => Sys2Proof.Machine.execNext s
  | .rand32 => Sys2Proof.Machine.execRand32 s
  | .rand52 => Sys2Proof.Machine.execRand52 s
  | .frand => Sys2Proof.Machine.execFrand s
  | .bounded range => Sys2Proof.Machine.execBounded range s
  | .sample m => Sys2Proof.Machine.execSample m s
  | .sampleC m => Sys2Proof.Machine.execSampleC m s
  | .pick p => Sys2Proof.Machine.execPick p s
  | .pickC p => Sys2Proof.Machine.execPickC p s
  | .trial => Sys2Proof.Machine.execTrial s

end Sys2Proof.Machine
end

