-- ==== Sys2Proof/Machine/HostPort.lean ====
section
/-! DEFINITION. The host's side (spec/20_memory.md R51, R52): performing one host operation or a reset. -/

namespace Sys2Proof.Machine

/-- What a word written to `CMD` does (spec/30_encoding.md R88). A word that selects no row is discarded while an error
is pending and else raises `E_ILLEGAL`; the other steps of R88 are in the meanings. -/
def runCommand (cw : Word) (s : State) : Result :=
  match decode cw with
  | .ok i => exec i s
  | .error _ => unlessPending s (.next (raise .illegal cw s))

/-- A reset "that arrives while a command is running abandons the command", and is the only way out of a command that
never ends (spec/70_reset_and_hazards.md R280). So a command that never ends, with a reset next in the queue, ends in
the reset state (log 12). -/
def abandonedByReset (s : State) (o : Result) : Result :=
  match o with
  | .fault .neverCompletes =>
    match s.hostOps with
    | .reset :: rest => .next (resetBlock (s.withOps rest))
    | _ => o
  | _ => o

/-- `MemRead(idx)` (R52). -/
def hostReads (idx : RegIndex) (s : State) : Result :=
  match readReg params idx s with
  | some v => .next (s.answer v)
  | none => .refused (.reservedIndex idx)

/-- `MemWrite(idx, v)` (R52): a write to `CMD` runs the command, to its end. -/
def hostWrites (idx : RegIndex) (v : Word) (s : State) : Result :=
  if idx = 0 then abandonedByReset s (runCommand v s)
  else match writeReg params idx v s with
    | some s' => .next s'
    | none => .refused (.reservedIndex idx)

/-- One operation of the queue. -/
def perform (op : HostOp) (s : State) : Result :=
  match op with
  | .rd idx => hostReads idx s
  | .wr idx v => hostWrites idx v s
  | .reset => .next (resetBlock s)

/-- The oldest operation of the queue is performed, whole (R60); with nothing to perform the block does nothing
(R60(d), R281). -/
def performNext (s : State) : Result :=
  match s.hostOps with
  | [] => .next s
  | op :: rest => perform op (s.withOps rest)

end Sys2Proof.Machine
end

