-- ==== Sys2Proof/Machine/Step.lean ====
section
/-! DEFINITION. One step: one host operation, one reset, or nothing (spec/00_scope.md R6, spec/20_memory.md R60). -/

namespace Sys2Proof.Machine

/-- One step of the machine. -/
def step (s : State) : Host.Outcome State Fault Refusal := performNext s

/-- The state with the command word of a table row put where the step takes its next operation from: at the head of the
host's queue, as a write to `CMD` (log 1). -/
def State.withFetchWord (s : State) (nbits w : Nat) : State :=
  { s with hostOps := .wr 0 (tableWord nbits w) :: s.hostOps }

end Sys2Proof.Machine
end

