-- ==== Sys2Proof/Safety.lean ====
section
/-! DEFINITION. What a legal state and a safe run are. `State.legal` is the invariant of the block's state (spec/10_state.md
R24, R25, R28; spec/60_exceptions.md R250, R251). `checkedStep` is the step with the fault that spec/10_state.md R35 asks
for where an operation reads an element that still holds the spec's `none` (U6; log 3): a run is safe when `checkedStep`
never faults on it. -/

namespace Sys2Proof.Safety

open Sys2Proof.Machine

/-- The eleven commands that raise `E_NOTREADY` while `CFG = 0` (R250). -/
def needsEngine : Instr → Bool
  | .config _ _ => false
  | .seed => true
  | .errclr => false
  | .rotl _ => false
  | .rotr _ => false
  | .next => true
  | .rand32 => true
  | .rand52 => true
  | .frand => true
  | .bounded _ => true
  | .sample _ => true
  | .sampleC _ => true
  | .pick _ => true
  | .pickC _ => true
  | .trial => true

/-- The operand conditions of R251 whose failure is `E_RANGE`, written from that rule. -/
def operandInRange : Instr → Bool
  | .bounded r => r.toNat != 0
  | .sample m => m.toNat != 0
  | .sampleC m => 2 ≤ m.toNat && m.toNat ≤ 65
  | .pick p => p.toNat != 0 && p.toNat ≤ 32
  | .pickC p => 2 ≤ p.toNat && p.toNat ≤ 32
  | .config _ _ => true
  | .seed => true
  | .errclr => true
  | .rotl _ => true
  | .rotr _ => true
  | .next => true
  | .rand32 => true
  | .rand52 => true
  | .frand => true
  | .trial => true

/-- The recorded code is one that the recorded word can have raised in a block whose `CFG` is `cfg` (R250, R251; `CFG`
cannot change while an error is pending, R254). -/
def errorFits (cfg : Bool) (code : BitVec 8) (cw : Word) : Bool :=
  match code.toNat, decode cw with
  | 1, .ok (.config n _) => !cfg && !(decide (3 ≤ n.toNat) && decide (n.toNat ≤ 32))
  | 2, .ok (.config n id) => !cfg && decide (3 ≤ n.toNat) && decide (n.toNat ≤ 32) && decide (2 < id.toNat)
  | 3, .error _ => true
  | 4, .ok i => !cfg && needsEngine i
  | 5, .ok i => cfg && !operandInRange i
  | 6, .ok (.config _ _) => cfg
  | _, _ => false

/-- The invariant of the block: "`ERR = 0` implies `ERRCODE = 0` and `ERRCMD = 0`" (R28), a pending error is recorded as
R250 and R251 say, and a configured block has `3 <= NDOORS <= MASK_W` (R25). -/
def legal (s : State) : Bool :=
  (if s.err then errorFits s.cfg s.errcode s.errcmd else s.errcode == 0 && s.errcmd == 0)
    && (!s.cfg || (decide (3 ≤ s.ndoors.toNat) && decide (s.ndoors.toNat ≤ 32)))

/-- The command gets as far as reading `ARG0` (R88: after the checks of steps 1 to 6). -/
def readsArg0 (i : Instr) (s : State) : Bool :=
  match i with
  | .rotl _ => true
  | .rotr _ => true
  | .seed => s.cfg
  | .pick _ => s.cfg && operandInRange i
  | .pickC _ => s.cfg && operandInRange i
  | .config _ _ => false
  | .errclr => false
  | .next => false
  | .rand32 => false
  | .rand52 => false
  | .frand => false
  | .bounded _ => false
  | .sample _ => false
  | .sampleC _ => false
  | .trial => false

/-- How many entries of the CDF table the command reads (R29). -/
def tableReads (i : Instr) (s : State) : Nat :=
  match i with
  | .sampleC m => if s.cfg && operandInRange i then m.toNat - 1 else 0
  | .pickC p => if s.cfg && operandInRange i then p.toNat - 1 else 0
  | .config _ _ => 0
  | .seed => 0
  | .errclr => 0
  | .rotl _ => 0
  | .rotr _ => 0
  | .next => 0
  | .rand32 => 0
  | .rand52 => 0
  | .frand => 0
  | .bounded _ => 0
  | .sample _ => 0
  | .pick _ => 0
  | .trial => 0

/-- The command reads an element that holds `none` (R35). A discarded command reads nothing (R254). -/
def commandReadsUnwritten (i : Instr) (s : State) : Bool :=
  !s.err && ((readsArg0 i s && !s.arg0.written) || (s.cdf.toList.take (tableReads i s)).any fun r => !r.written)

/-- The host operation reads an element that holds `none` (R35, U6). -/
def readsUnwritten (op : HostOp) (s : State) : Bool :=
  match op with
  | .rd idx =>
    (idx == 0x02 && !s.arg0.written) || (idx == 0x03 && !s.res.written)
      || (isCdfIndex params idx && !(s.cdf.get (cdfIndex idx)).written)
  | .wr idx v =>
    idx == 0x00 && match decode v with
      | .ok i => commandReadsUnwritten i s
      | .error _ => false
  | .reset => false

/-- The step, but for a fault where R35 gives the operation no result (U6). -/
def checkedStep (s : State) : Result :=
  match s.hostOps with
  | [] => step s
  | op :: _ => if readsUnwritten op s then .fault .unwrittenElement else step s

end Sys2Proof.Safety
end

