-- ==== Sys2Proof/Certificates/Slice0/Obligations.lean ====
section
/-! DEFINITION. The statements for the provers. The vocabulary comes first: it says what the spec says in plain
arithmetic or by plain record updates, apart from the model's own operations where it can. -/

namespace Sys2Proof.Claims

open Sys2Proof.Machine

/-- A configured block with no error pending. -/
abbrev Ready (s : State) : Prop := s.err = false ∧ s.cfg = true

/-- The state once the operation at the head of the host's queue has been taken off it. -/
def popped (s : State) (rest : List HostOp) : State := { s with hostOps := rest, hostRead := none }

/-- The state with the three error registers of R253 written, and nothing else. -/
def errorState (code : BitVec 8) (cw : Word) (s : State) : State :=
  { s with err := true, errcode := code, errcmd := cw }

/-- The state with `S` and `RES` written, and nothing else. -/
def resultState (v : Word) (b : Bank) (s : State) : State := { s with bank := b, res := { val := v, written := true } }

/-- The top half of the `n`-th word (counted from 0) of the stream that starts at bank `b` (R150). -/
def draw (e : Engine) (b : Bank) (n : Nat) : Nat := (nextWord params e (bankAfter params e n b)).1.toNat / 2 ^ 32

/-- Draw `n` is one of those `Bounded(range)` rejects: `low < t`, `t = 2^32 mod range` (R165, R166). -/
def rejected (e : Engine) (range : U32) (b : Bank) (n : Nat) : Bool :=
  decide (draw e b n * range.toNat % 2 ^ 32 < 2 ^ 32 % range.toNat)

/-- `Bounded(range)` from bank `b`: the first draw that is not rejected gives the value, and the bank has taken one step
per draw (R165). -/
def Yields (e : Engine) (range : U32) (b : Bank) (v : Nat) (b' : Bank) : Prop :=
  ∃ n, (∀ j, j < n → rejected e range b j = true) ∧ rejected e range b n = false
    ∧ v = draw e b n * range.toNat / 2 ^ 32 ∧ b' = bankAfter params e (n + 1) b

/-- How many of the numbers below `d` satisfy `P`. -/
def rank (P : Nat → Bool) (d : Nat) : Nat := ((List.range d).filter P).length

/-- The choice of one of the `pop` doors that satisfy `P` (R212, R214): forced, with no draw, when there is one, and
else the `k`-th counted from door 0, `k` drawn by `Bounded(pop)`. -/
def Chooses (e : Engine) (P : Nat → Bool) (pop : Nat) (b : Bank) (door : Nat) (b' : Bank) : Prop :=
  P door = true ∧
    ((pop = 1 ∧ b' = b) ∨ (pop ≠ 1 ∧ Yields e (BitVec.ofNat 32 pop) b (rank P door) b'))

/-- The banks agree on the words the engine uses (R21). -/
def SameStream (e : Engine) (b b' : Bank) : Prop :=
  b.s0 = b'.s0 ∧ b.s1 = b'.s1 ∧ (e = .mcg128 ∨ (b.s2 = b'.s2 ∧ b.s3 = b'.s3))

/-- Seeding an engine from a seed (R127 to R130): the initial state, then 20 or 12 steps. -/
def seeded (e : Engine) (seed : Word) (b : Bank) : Bank :=
  match e with
  | .mcg128 => bankAfter params .mcg128 20 { s0 := seed, s1 := 0, s2 := b.s2, s3 := b.s3 }
  | .sfcCounter => bankAfter params .sfcCounter 12 { s0 := seed, s1 := seed, s2 := seed, s3 := 1 }
  | .sfcPcgCounter => bankAfter params .sfcPcgCounter 12 { s0 := seed, s1 := seed, s2 := seed, s3 := 1 }

/-- Entry `i` of the CDF table. -/
def entry (s : State) (i : Nat) : Word := (s.cdf.toList.map (·.val)).getD i 0

/-- The contract of R182 for the entries `CDF[0 .. m-2]`: each in `(0,1)` (a positive pattern below that of `1.0`), none
smaller than the one before it. -/
abbrev TableOk (s : State) (m : Nat) : Prop :=
  (∀ i, i < m - 1 → 0 < (entry s i).toNat ∧ (entry s i).toNat < 0x3FF0000000000000)
    ∧ ∀ i, i < m - 2 → (entry s i).toNat ≤ (entry s (i + 1)).toNat

/-- The pattern that `Frand()` answers from bank `b` (R152): the difference `p - 1.0`, `p = {0, 0x3FF, d}`. -/
def frandValue (e : Engine) (b : Bank) : Word :=
  f64Sub (BitVec.ofNat 64 (0x3FF * 2 ^ 52 + (nextWord params e b).1.toNat / 2 ^ 12)) 0x3FF0000000000000

/-- The scan of R181: `k` is the first index with `r < CDF[k]`, or `m - 1` if there is none. -/
abbrev FirstGreater (s : State) (m : Nat) (r : Word) (k : Nat) : Prop :=
  k ≤ m - 1 ∧ (∀ i, i < k → f64Lt r (entry s i) = false) ∧ (k < m - 1 → f64Lt r (entry s k) = true)

/-- Bit `d` of `ARG0[31:0]`, the DoorMask operand (R39). -/
def maskBit (s : State) (d : Nat) : Bool := decide (d < 32) && s.arg0.val.getLsbD d

/-- The result word of a pick at position `pos` (R198). -/
def pickedWord (pos : Nat) : Word := BitVec.ofNat 64 (pos * 2 ^ 32 + 2 ^ pos)

/-- A pending error discards the command, and an unconfigured block refuses it with `E_NOTREADY` (R88, R254, R251). -/
def RefusedUnready (i : Instr) : Prop :=
  ∀ s : State, (s.err = true → exec i s = .next s)
    ∧ (s.err = false → s.cfg = false → exec i s = .next (errorState 4 (encode i) s))

/-- With no error pending, a word with this opcode that is none of the command's words raises `E_ILLEGAL` (R84). -/
def IllegalUnless (op : BitVec 8) (isWord : Word → Prop) : Prop :=
  ∀ (s : State) (w : Word) (rest : List HostOp), s.hostOps = .wr 0 w :: rest → s.err = false → w.extractLsb' 0 8 = op →
    ¬ isWord w → step s = .next (errorState 3 w (popped s rest))

/-- One row of the opcode map (R83), and the instruction it gives with `imm32` and `sub`. -/
structure Row where
  /-- The `match` column. -/
  pattern : Word
  /-- The `mask` column. -/
  mask : Word
  /-- The command, given `cw[63:32]` and `cw[23:16]`. -/
  instr : U32 → BitVec 8 → Instr

/-- The fifteen rows of R83. -/
def rows : List Row :=
  [⟨0x0000000000000001, 0x00000000FF00FFFF, fun n e => .config n e⟩,
   ⟨0x0000000000000002, 0xFFFFFFFFFFFFFFFF, fun _ _ => .seed⟩,
   ⟨0x0000000000000003, 0xFFFFFFFFFFFFFFFF, fun _ _ => .errclr⟩,
   ⟨0x0000000000000010, 0xFFFFFFFFFFC0FFFF, fun _ k => .rotl k⟩,
   ⟨0x0000000000000011, 0xFFFFFFFFFFC0FFFF, fun _ k => .rotr k⟩,
   ⟨0x0000000000000020, 0xFFFFFFFFFFFFFFFF, fun _ _ => .next⟩,
   ⟨0x0000000000000021, 0xFFFFFFFFFFFFFFFF, fun _ _ => .rand32⟩,
   ⟨0x0000000000000022, 0xFFFFFFFFFFFFFFFF, fun _ _ => .rand52⟩,
   ⟨0x0000000000000023, 0xFFFFFFFFFFFFFFFF, fun _ _ => .frand⟩,
   ⟨0x0000000000000030, 0x00000000FFFFFFFF, fun r _ => .bounded r⟩,
   ⟨0x0000000000000031, 0x00000000FFFFFFFF, fun m _ => .sample m⟩,
   ⟨0x0000000000000131, 0x00000000FFFFFFFF, fun m _ => .sampleC m⟩,
   ⟨0x0000000000000032, 0x00000000FFFFFFFF, fun p _ => .pick p⟩,
   ⟨0x0000000000000132, 0x00000000FFFFFFFF, fun p _ => .pickC p⟩,
   ⟨0x0000000000000040, 0xFFFFFFFFFFFFFFFF, fun _ _ => .trial⟩]

/-- What R84 lists as illegal, by the fields of R80. -/
abbrev FieldsIllegal (op : Nat) (c : BitVec 1) (rsv1 : BitVec 7) (sub rsv2 : BitVec 8) (imm : U32) : Prop :=
  op ∉ [0x01, 0x02, 0x03, 0x10, 0x11, 0x20, 0x21, 0x22, 0x23, 0x30, 0x31, 0x32, 0x40]
  ∨ rsv1 ≠ 0 ∨ rsv2 ≠ 0
  ∨ (op = 0x01 ∧ c ≠ 0)
  ∨ (op ∈ [0x02, 0x03, 0x20, 0x21, 0x22, 0x23, 0x40] ∧ (c ≠ 0 ∨ sub ≠ 0 ∨ imm ≠ 0))
  ∨ (op ∈ [0x10, 0x11] ∧ (c ≠ 0 ∨ 64 ≤ sub.toNat ∨ imm ≠ 0))
  ∨ (op = 0x30 ∧ (c ≠ 0 ∨ sub ≠ 0))
  ∨ (op ∈ [0x31, 0x32] ∧ sub ≠ 0)

/-- The word is illegal (R84): `op = cw[7:0]`, `c = cw[8]`, `rsv1 = cw[15:9]`, `sub = cw[23:16]`, `rsv2 = cw[31:24]`,
`imm32 = cw[63:32]` (R80). -/
abbrev IllegalByFields (w : Word) : Prop :=
  FieldsIllegal (w.extractLsb' 0 8).toNat (w.extractLsb' 8 1) (w.extractLsb' 9 7) (w.extractLsb' 16 8) (w.extractLsb' 24 8)
    (w.extractLsb' 32 32)

/-- The command reads an element that nothing has written (R35, R286): it is past the checks of R88, and `ARG0`, for the
five commands that read it, or some entry `CDF[0 .. m-2]`, for the two table forms, carries no mark. -/
def CommandReadsNone (i : Instr) (s : State) : Prop :=
  match i with
  | .rotl _ => s.arg0.written = false
  | .rotr _ => s.arg0.written = false
  | .seed => s.cfg = true ∧ s.arg0.written = false
  | .pick p => s.cfg = true ∧ 1 ≤ p.toNat ∧ p.toNat ≤ 32 ∧ s.arg0.written = false
  | .pickC p => s.cfg = true ∧ 2 ≤ p.toNat ∧ p.toNat ≤ 32
      ∧ (s.arg0.written = false ∨ ∃ j : Fin 64, j.val < p.toNat - 1 ∧ (s.cdf.get j).written = false)
  | .sampleC m => s.cfg = true ∧ 2 ≤ m.toNat ∧ m.toNat ≤ 65 ∧ ∃ j : Fin 64, j.val < m.toNat - 1 ∧ (s.cdf.get j).written = false
  | .config _ _ => False
  | .errclr => False
  | .next => False
  | .rand32 => False
  | .rand52 => False
  | .frand => False
  | .bounded _ => False
  | .sample _ => False
  | .trial => False

/-- The host operation reads an element that nothing has written (R35, U6): a read of `ARG0`, `RES` or `CDF[j]`, or a
command that is not discarded. -/
def ReadsNone (op : HostOp) (s : State) : Prop :=
  match op with
  | .rd idx => (idx.toNat = 0x02 ∧ s.arg0.written = false) ∨ (idx.toNat = 0x03 ∧ s.res.written = false)
      ∨ ∃ j : Fin 64, idx.toNat = 0x40 + j.val ∧ (s.cdf.get j).written = false
  | .wr idx w => idx.toNat = 0x00 ∧ s.err = false ∧ ∃ i, decode w = .ok i ∧ CommandReadsNone i s
  | .reset => False

/-- The twelve commands that write `RES` on success (R27). -/
def writesRes : Instr → Bool
  | .config _ _ => false
  | .seed => false
  | .errclr => false
  | .rotl _ => true
  | .rotr _ => true
  | .next => true
  | .rand32 => true
  | .rand52 => true
  | .frand => true
  | .bounded _ => true
  | .sample _ => true
  | .sampleC _ => true
  | .pick _ => true
  | .pickC _ => true
  | .trial => true

/-- Field `RES[hi:lo]` of `TRIAL`'s result, as a number (R216). -/
def resField (t : State) (lo width : Nat) : Nat := t.res.val.toNat / 2 ^ lo % 2 ^ width

/-- The closed form that `42_uniform.md` section 1 derives for `FRAND`'s result. -/
def frandBits (d : Nat) : Word :=
  if d = 0 then 0 else BitVec.ofNat 64 ((971 + d.log2) * 2 ^ 52 + (d * 2 ^ (52 - d.log2) - 2 ^ 52))

end Sys2Proof.Claims

open Sys2Proof Sys2Proof.Machine Sys2Proof.Safety Sys2Proof.Claims

/-! ### Command words -/

/-- Every well-formed command decodes from its own word (R80, R81, R83). -/
def Obligations.DecodeEncodeRoundTrip : Prop :=
  ∀ i : Instr, i.wellFormed = true → decode (encode i) = .ok i

/-- A word that decodes is the word of the command it decodes to, so the `ERRCMD` that an error entry records from the
command is the word the host wrote (R253; log 19). -/
def Obligations.DecodedWordIsTheEncoding : Prop :=
  ∀ (w : Word) (i : Instr), decode w = .ok i → encode i = w ∧ i.wellFormed = true

/-- R83: a word selects a row iff `cw & mask = match`; the rows are disjoint; a word that selects none is illegal. -/
def Obligations.DecodeFollowsOpcodeMap : Prop :=
  ∀ w : Word,
    (∀ r ∈ rows, decode w = .ok (r.instr (w.extractLsb' 32 32) (w.extractLsb' 16 8)) ↔ w &&& r.mask = r.pattern)
    ∧ rows.Pairwise (fun r q => ¬ (w &&& r.mask = r.pattern ∧ w &&& q.mask = q.pattern))
    ∧ ((∃ e, decode w = .error e) ↔ ∀ r ∈ rows, w &&& r.mask ≠ r.pattern)

/-- Command words written out from R83 and R86, one of each row. -/
def Obligations.DecodesWrittenOutWords : Prop :=
  decode 0x0000000300010001 = .ok (.config 3 1) ∧ decode 0x0000000000000002 = .ok .seed
  ∧ decode 0x0000000000000003 = .ok .errclr ∧ decode 0x0000000000180010 = .ok (.rotl 24)
  ∧ decode 0x00000000003F0011 = .ok (.rotr 63) ∧ decode 0x0000000000000020 = .ok .next
  ∧ decode 0x0000000000000021 = .ok .rand32 ∧ decode 0x0000000000000022 = .ok .rand52
  ∧ decode 0x0000000000000023 = .ok .frand ∧ decode 0xC000000000000030 = .ok (.bounded 0xC0000000)
  ∧ decode 0x0000000200000031 = .ok (.sample 2) ∧ decode 0x0000000400000131 = .ok (.sampleC 4)
  ∧ decode 0x0000000300000032 = .ok (.pick 3) ∧ decode 0x0000000300000132 = .ok (.pickC 3)
  ∧ decode 0x0000000000000040 = .ok .trial

/-- A write of a command's word to `CMD` is a step of that command from the state with the operation taken off the
queue (R52, R88). The second part leaves out only the case that a reset comes next: a command that never ends is then
abandoned (R280; log 12). -/
def Obligations.StepRunsTheDecodedCommand : Prop :=
  ∀ (s : State) (w : Word) (i : Instr) (rest : List HostOp), s.hostOps = .wr 0 w :: rest → decode w = .ok i →
    (∀ t, exec i (popped s rest) = .next t → step s = .next t)
    ∧ (rest.head? ≠ some .reset → step s = exec i (popped s rest))

/-- R84: the words that are illegal, field by field, raise `E_ILLEGAL` whatever `CFG` is; a `CONFIG` word with `sub >= 3`
is not illegal and fails with `E_CONFIG_RNG`. -/
def Obligations.IllegalWordsRaiseIllegal : Prop :=
  (∀ (s : State) (w : Word) (rest : List HostOp), s.hostOps = .wr 0 w :: rest → s.err = false → IllegalByFields w →
    step s = .next (errorState 3 w (popped s rest)))
  ∧ ∀ (s : State) (n e : Nat) (rest : List HostOp),
    s.hostOps = .wr 0 (BitVec.ofNat 64 (0x01 + e * 2 ^ 16 + n * 2 ^ 32)) :: rest → s.err = false → s.cfg = false →
    3 ≤ n → n ≤ 32 → 3 ≤ e → e < 256 →
    step s = .next (errorState 2 (BitVec.ofNat 64 (0x01 + e * 2 ^ 16 + n * 2 ^ 32)) (popped s rest))

/-! ### The error state -/

/-- R254: while an error is pending every word but `ERRCLR`'s is discarded; register reads and writes to `ARG0` and the
table are performed. -/
def Obligations.PendingErrorDiscardsCommands : Prop :=
  ∀ (s : State) (rest : List HostOp), s.err = true →
    (∀ w : Word, s.hostOps = .wr 0 w :: rest → w ≠ 0x0000000000000003 → step s = .next (popped s rest))
    ∧ (∀ (idx : RegIndex) (v : Word), s.hostOps = .rd idx :: rest → readReg params idx (popped s rest) = some v →
        step s = .next { popped s rest with hostRead := some v })
    ∧ (∀ v : Word, s.hostOps = .wr 2 v :: rest → step s = .next { popped s rest with arg0 := { val := v, written := true } })
    ∧ (∀ (idx : RegIndex) (i : Fin 64) (v : Word), idx.toNat = 64 + i.val → s.hostOps = .wr idx v :: rest →
        step s = .next { popped s rest with cdf := s.cdf.set i { val := v, written := true } })

/-- R234: `ERRCLR` clears the three error registers and nothing else, pending or not; while an error is pending no other
word is executed; a word with `op = 0x03` that is not exactly `ERRCLR`'s is illegal. -/
def Obligations.ErrclrReturnsFromTheErrorState : Prop :=
  (∀ s : State, exec .errclr s = .next { s with err := false, errcode := 0, errcmd := 0 })
  ∧ (∀ (s : State) (rest : List HostOp), s.hostOps = .wr 0 0x0000000000000003 :: rest →
      step s = .next { popped s rest with err := false, errcode := 0, errcmd := 0 })
  ∧ (∀ (s : State) (w : Word) (rest : List HostOp), s.hostOps = .wr 0 w :: rest → w ≠ 0x0000000000000003 →
      (s.err = true → step s = .next (popped s rest))
      ∧ (s.err = false → w.extractLsb' 0 8 = 3#8 → step s = .next (errorState 3 w (popped s rest))))

/-- R253: an error is precise: the state after a refused command is the state before it with the three error registers
written: the word is the one the host wrote, the code the one that R250 and R251 give this word in this block. -/
def Obligations.ErrorsArePrecise : Prop :=
  ∀ s t : State, step s = .next t → s.err = false → t.err = true →
    ∃ (w : Word) (rest : List HostOp), s.hostOps = .wr 0 w :: rest ∧ errorFits s.cfg t.errcode w = true
      ∧ t = errorState t.errcode w (popped s rest)

/-- R256: errors do not nest: until `ERRCLR` or a reset a pending error keeps its code and its word. -/
def Obligations.FirstErrorIsKept : Prop :=
  ∀ s t : State, step s = .next t → s.err = true → s.hostOps.head? ≠ some .reset →
    (t.err = true ∧ t.errcode = s.errcode ∧ t.errcmd = s.errcmd)
    ∨ (∃ rest, s.hostOps = .wr 0 0x0000000000000003 :: rest ∧ t.err = false ∧ t.errcode = 0 ∧ t.errcmd = 0)

/-! ### BitRotate -/

/-- R110: the two rotates by their formulas, bit by bit, and one by the other. -/
def Obligations.RotatesMoveBits : Prop :=
  ∀ (a : Word) (n : Nat), n < 64 →
    (n = 0 → rotl64 a n = a ∧ rotr64 a n = a)
    ∧ (1 ≤ n → rotl64 a n = (a <<< n ||| a >>> (64 - n)) ∧ rotr64 a n = (a >>> n ||| a <<< (64 - n)))
    ∧ (∀ i, i < 64 → (rotl64 a n).getLsbD i = a.getLsbD ((i + 64 - n) % 64)
        ∧ (rotr64 a n).getLsbD i = a.getLsbD ((i + n) % 64))
    ∧ rotr64 a n = rotl64 a ((64 - n) % 64)

/-- R111: `ROTL k` writes `ARG0` rotated left to `RES` and changes nothing else; no configuration is needed. That an `ARG0`
never written is rotated too, with its free content, is the model's choice (log 3). -/
def Obligations.RotlRotatesArg0 : Prop :=
  (∀ (s : State) (k : BitVec 8), k.toNat < 64 → s.err = false →
    exec (.rotl k) s = .next { s with res := { val := s.arg0.val.rotateLeft k.toNat, written := true } })
  ∧ (∀ (s : State) (k : BitVec 8), s.err = true → exec (.rotl k) s = .next s)
  ∧ IllegalUnless 0x10 fun w => ∃ k, k < 64 ∧ w = BitVec.ofNat 64 (0x10 + k * 2 ^ 16)

/-- R112: `ROTR k` writes `ARG0` rotated right to `RES` and changes nothing else; no configuration is needed. That an `ARG0`
never written is rotated too, with its free content, is the model's choice (log 3). -/
def Obligations.RotrRotatesArg0 : Prop :=
  (∀ (s : State) (k : BitVec 8), k.toNat < 64 → s.err = false →
    exec (.rotr k) s = .next { s with res := { val := s.arg0.val.rotateRight k.toNat, written := true } })
  ∧ (∀ (s : State) (k : BitVec 8), s.err = true → exec (.rotr k) s = .next s)
  ∧ IllegalUnless 0x11 fun w => ∃ k, k < 64 ∧ w = BitVec.ofNat 64 (0x11 + k * 2 ^ 16)

/-! ### Engines -/

/-- The four 32x32 partial products with carry propagation are the 128-bit multiplication (`41_prng_engines.md` section
2, derived there), and so give the halves of MCG128's next state. -/
def Obligations.PartialProductsAreTheMultiplication : Prop :=
  (∀ lo hi m : Word,
    (mcgPartialProducts lo hi m).2 ++ (mcgPartialProducts lo hi m).1 = (hi ++ lo : U128) * m.setWidth 128)
  ∧ ∀ b : Bank, ((stepMCG128 params b).2.s0, (stepMCG128 params b).2.s1) =
      mcgPartialProducts b.s0 b.s1 0xDA942042E4DD58B5

/-- R132 with R124, R125, R126, R133: `NEXT` takes one step of the selected engine by that engine's recurrence, writes
its output to `RES`, and changes nothing else. -/
def Obligations.NextStepsTheSelectedEngine : Prop :=
  (∀ s : State, Ready s → ∃ (v : Word) (b : Bank), exec .next s = .next (resultState v b s) ∧
    match s.eng with
    | .mcg128 =>
      b.s1 ++ b.s0 = (s.bank.s1 ++ s.bank.s0 : U128) * 0x0000000000000000DA942042E4DD58B5
      ∧ b.s2 = s.bank.s2 ∧ b.s3 = s.bank.s3 ∧ v = (b.s1 ^^^ b.s0).rotateRight (b.s1.toNat / 2 ^ 58)
    | .sfcCounter =>
      v = s.bank.s0 + s.bank.s1 + s.bank.s3
      ∧ b = ⟨s.bank.s1 ^^^ (s.bank.s1 >>> 11), s.bank.s2 + (s.bank.s2 <<< 3), s.bank.s2.rotateLeft 24 + v, s.bank.s3 + 1⟩
    | .sfcPcgCounter =>
      v = s.bank.s0 + s.bank.s1 + s.bank.s3.rotateRight (s.bank.s3.toNat / 2 ^ 58)
      ∧ b = ⟨s.bank.s1 ^^^ (s.bank.s1 >>> 11), s.bank.s2 + (s.bank.s2 <<< 3), s.bank.s2.rotateLeft 24 + v,
          s.bank.s3 * 6364136223846793005 + 1442695040888963407⟩)
  ∧ RefusedUnready .next ∧ IllegalUnless 0x20 (fun w => w = 0x0000000000000020)

/-- The multiplication by the odd constant is a bijection on the 128-bit state and keeps its number of trailing zeros; the
zero state is absorbing, the seed 0 gives it, and the seed constant gives a state that is odd for ever
(`41_prng_engines.md` section 2, derived there). -/
def Obligations.McgKeepsTrailingZeros : Prop :=
  (∀ b b' : Bank, (stepMCG128 params b).2.s0 = (stepMCG128 params b').2.s0 →
    (stepMCG128 params b).2.s1 = (stepMCG128 params b').2.s1 → b.s0 = b'.s0 ∧ b.s1 = b'.s1)
  ∧ (∀ t : U128, ∃ b : Bank, mcgState (stepMCG128 params b).2 = t)
  ∧ (∀ (b : Bank) (z : Nat), z ≤ 128 →
    (2 ^ z ∣ (mcgState (stepMCG128 params b).2).toNat ↔ 2 ^ z ∣ (mcgState b).toNat))
  ∧ (∀ s : State, Ready s → s.eng = .mcg128 → s.bank.s0 = 0 → s.bank.s1 = 0 →
    exec .next s = .next (resultState 0 s.bank s))
  ∧ (∀ b : Bank, (seedBank params .mcg128 0 b).s0 = 0 ∧ (seedBank params .mcg128 0 b).s1 = 0)
  ∧ (∀ (b : Bank) (n : Nat), (bankAfter params .mcg128 n (seedBank params .mcg128 0xC68FA87D83F72455 b)).s0.getLsbD 0 = true)

/-- R131 with R127 to R130: `SEED` seeds the selected engine from `ARG0`, with the whole warm-up, and changes nothing
else. That an `ARG0` never written seeds too, with its free content, is the model's choice (log 3). -/
def Obligations.SeedReseedsFromArg0 : Prop :=
  (∀ s : State, Ready s → exec .seed s = .next { s with bank := seeded s.eng s.arg0.val s.bank })
  ∧ RefusedUnready .seed ∧ IllegalUnless 0x02 (fun w => w = 0x0000000000000002)

/-- After a seeding the stream depends on the engine and the seed alone: "whatever `S` held before is forgotten"
(R130; R36). -/
def Obligations.SeedForgetsTheOldStream : Prop :=
  ∀ s t s' t' : State, Ready s → Ready t → s.eng = t.eng → s.arg0.val = t.arg0.val →
    exec .seed s = .next s' → exec .seed t = .next t' →
    SameStream s.eng s'.bank t'.bank
    ∧ ∀ n, SameStream s.eng (bankAfter params s.eng n s'.bank) (bankAfter params s.eng n t'.bank)
        ∧ (nextWord params s.eng (bankAfter params s.eng n s'.bank)).1 =
          (nextWord params s.eng (bankAfter params s.eng n t'.bank)).1

/-- Seeding with the seed constant returns the engine to the state a successful `CONFIG` left (R283). That an `ARG0` never
written seeds too, where its free content is the constant, is the model's choice (log 3). -/
def Obligations.SeedConstantRestoresTheConfiguredStream : Prop :=
  ∀ (s t u : State) (n : U32) (id : BitVec 8), s.err = false → s.cfg = false → exec (.config n id) s = .next t →
    t.err = false → Ready u → u.eng = t.eng → u.arg0.val = 0xC68FA87D83F72455 →
    ∃ u', exec .seed u = .next u' ∧ SameStream t.eng t.bank u'.bank ∧ u'.eng = u.eng ∧ u'.ndoors = u.ndoors
      ∧ u'.arg0 = u.arg0 ∧ u'.res = u.res ∧ u'.cdf = u.cdf ∧ u'.err = false

/-- `S[3]` after seeding does not depend on the seed: 13 under SFC-Counter, the LCG applied twelve times to 1 under
SFC-PCGCounter; MCG128 leaves `S[2]` and `S[3]` alone (`95_test_vectors.md` section 2.3, from R125 to R130). -/
def Obligations.CounterAfterSeedingIgnoresTheSeed : Prop :=
  ∀ (seed : Word) (b : Bank), (seedBank params .sfcCounter seed b).s3 = 0x000000000000000D
    ∧ (seedBank params .sfcPcgCounter seed b).s3 = 0x892769E4FD73A80D
    ∧ (seedBank params .mcg128 seed b).s2 = b.s2 ∧ (seedBank params .mcg128 seed b).s3 = b.s3

/-- The words the selected engine does not use (`S[2]`, `S[3]` under MCG128) are never read by a command
(R21, R35: "no rule reads them"; U10): changing them changes no outcome, but for their own content. -/
def Obligations.UnusedWordsAreNeverRead : Prop :=
  ∀ (i : Instr) (s : State) (x y : Word), s.eng = .mcg128 →
    (∀ t, exec i s = .next t → t.eng = .mcg128 →
      exec i { s with bank := { s.bank with s2 := x, s3 := y } } = .next { t with bank := { t.bank with s2 := x, s3 := y } })
    ∧ (∀ f, exec i s = .fault f → exec i { s with bank := { s.bank with s2 := x, s3 := y } } = .fault f)

/-- What a command does depends on the stream, the configuration, the error state, `ARG0` and the table only
(`10_state.md` section 7, `41_prng_engines.md` section 6): not on the old result, nor on the model's own fields, which are
the host's queue and its last read (log 1, log 2) and the marks that say whether `ARG0`, `RES` or a table entry has been
written (log 3). -/
def Obligations.CommandsIgnoreOldResults : Prop :=
  ∀ (i : Instr) (s : State) (r : Reg) (ops : List HostOp) (h : Option Word) (m : Bool) (marks : Fin 64 → Bool),
    let s' := { s with res := r, hostOps := ops, hostRead := h, arg0 := { s.arg0 with written := m },
                       cdf := Vector.ofFn fun j => { s.cdf.get j with written := marks j } }
    (∀ t, exec i s = .next t → ∃ t', exec i s' = .next t' ∧ t'.bank = t.bank ∧ t'.eng = t.eng ∧ t'.cfg = t.cfg
      ∧ t'.ndoors = t.ndoors ∧ t'.err = t.err ∧ t'.errcode = t.errcode ∧ t'.errcmd = t.errcmd
      ∧ (writesRes i = true → s.err = false → t.err = false → t'.res = t.res))
    ∧ (∀ f, exec i s = .fault f → exec i s' = .fault f)

/-! ### Uniform derivation -/

/-- R154, R150: `RAND32` takes one step and returns the word's top half; nothing else changes. -/
def Obligations.Rand32ReturnsTheTopHalf : Prop :=
  (∀ s : State, Ready s → exec .rand32 s = .next (resultState
    (BitVec.ofNat 64 ((nextWord params s.eng s.bank).1.toNat / 2 ^ 32)) (nextWord params s.eng s.bank).2 s))
  ∧ RefusedUnready .rand32 ∧ IllegalUnless 0x21 (fun w => w = 0x0000000000000021)

/-- R155, R151: `RAND52` takes one step and returns the word's top 52 bits; nothing else changes. -/
def Obligations.Rand52ReturnsTheTop52Bits : Prop :=
  (∀ s : State, Ready s → exec .rand52 s = .next (resultState
    (BitVec.ofNat 64 ((nextWord params s.eng s.bank).1.toNat / 2 ^ 12)) (nextWord params s.eng s.bank).2 s))
  ∧ RefusedUnready .rand52 ∧ IllegalUnless 0x22 (fun w => w = 0x0000000000000022)

/-- R156, R152: `FRAND` takes one step and returns the double `p - 1.0`, `p` built from the top 52 bits: a pattern
with sign 0 below that of `1.0`. -/
def Obligations.FrandReturnsAUnitDouble : Prop :=
  (∀ s : State, Ready s →
    exec .frand s = .next (resultState (frandValue s.eng s.bank) (nextWord params s.eng s.bank).2 s))
  ∧ (∀ (e : Engine) (b : Bank), (frandValue e b).toNat < 0x3FF0000000000000)
  ∧ RefusedUnready .frand ∧ IllegalUnless 0x23 (fun w => w = 0x0000000000000023)

/-- The subtraction of `FRAND` is exact (`42_uniform.md` section 1, derived there): it equals the closed form, its value
is `d * 2^-52` (significand times `2^(scale - 1075)`), it is below `1.0`, positive or `+0`, and distinct draws give
distinct results with bit 0 clear. -/
def Obligations.FrandIsExact : Prop :=
  ∀ d : Nat, d < 2 ^ 52 →
    let r := f64Sub (BitVec.ofNat 64 (0x3FF * 2 ^ 52 + d)) 0x3FF0000000000000
    r = frandBits d ∧ f64Neg r = false ∧ f64Sig r * 2 ^ f64Scale r = d * 2 ^ 1023
    ∧ r.toNat < 0x3FF0000000000000 ∧ r.getLsbD 0 = false ∧ (d ≠ 0 → 0x3CB ≤ f64Exp r ∧ f64Exp r ≤ 0x3FE)
    ∧ ∀ d', d' < 2 ^ 52 → frandBits d' = frandBits d → d' = d

/-! ### Bounded sampler -/

/-- R166: the threshold is `(-range) mod range` in 32-bit arithmetic, `2^32 mod range`, below the range, and 0 exactly
when the range divides `2^32`, that is when it is a power of two. -/
def Obligations.ThresholdIsTheRemainder : Prop :=
  ∀ r : U32, r ≠ 0 →
    threshold r = (-r) % r ∧ (threshold r).toNat = (2 ^ 32 - r.toNat) % r.toNat
    ∧ (threshold r).toNat = 2 ^ 32 % r.toNat ∧ (threshold r).toNat < r.toNat
    ∧ (threshold r = 0 ↔ r.toNat ∣ 2 ^ 32) ∧ (threshold r = 0 ↔ ∃ k, k < 32 ∧ r.toNat = 2 ^ k)

/-- R167, R165: `BOUNDED r` returns the high half of the first product whose low half is not below the threshold, having
taken one step per draw; `r = 0` raises `E_RANGE`. -/
def Obligations.BoundedReturnsTheFirstAcceptedDraw : Prop :=
  (∀ (s : State) (r : U32) (v : Nat) (b : Bank), Ready s → r ≠ 0 → Yields s.eng r s.bank v b →
    exec (.bounded r) s = .next (resultState (BitVec.ofNat 64 v) b s))
  ∧ (∀ s : State, Ready s → exec (.bounded 0) s = .next (errorState 5 0x0000000000000030 s))
  ∧ (∀ r, RefusedUnready (.bounded r))
  ∧ IllegalUnless 0x30 (fun w => ∃ r, w = BitVec.ofNat 64 (0x30 + r * 2 ^ 32))

/-- `BOUNDED` stops as a command that never ends exactly when every draw of the unbounded loop is rejected
(R168, R284: the loop is exact though it runs under fuel; log 7). -/
def Obligations.BoundedNeverCompletesIffNoDrawIsAccepted : Prop :=
  ∀ (s : State) (r : U32), Ready s → r ≠ 0 →
    (exec (.bounded r) s = .fault .neverCompletes ↔ ∀ n, rejected s.eng r s.bank n = true)

/-- The value of a bounded draw is below the range; a power of two never redraws and returns the top bits; the range 1
returns 0 (`43_bounded.md` section 1, derived there). -/
def Obligations.BoundedValuesAreBelowTheRange : Prop :=
  ∀ (e : Engine) (r v : U32) (b b' : Bank), r ≠ 0 → bounded params e r b = .done v b' →
    v.toNat < r.toNat ∧ (r = 1 → v = 0)
    ∧ ∀ k, k < 32 → r.toNat = 2 ^ k → v.toNat = draw e b 0 / 2 ^ (32 - k) ∧ b' = bankAfter params e 1 b

/-- The source's "unbiased over `[0, range)`" (`43_bounded.md` section 1, derived there by counting): of the `2^32` draws
exactly `2^32 mod range` are rejected, and each value is returned by exactly `floor(2^32 / range)` accepted draws. -/
def Obligations.BoundedIsUnbiased : Prop :=
  ∀ r : U32, r ≠ 0 →
    ((Finset.range (2 ^ 32)).filter fun x => lo32 (mul32x32 (BitVec.ofNat 32 x) r) < threshold r).card = 2 ^ 32 % r.toNat
    ∧ ∀ v : U32, v.toNat < r.toNat →
      ((Finset.range (2 ^ 32)).filter fun x => ¬ lo32 (mul32x32 (BitVec.ofNat 32 x) r) < threshold r
        ∧ hi32 (mul32x32 (BitVec.ofNat 32 x) r) = v).card = 2 ^ 32 / r.toNat

/-- MCG128 seeded with 0 holds the zero state (R284); from it every bounded draw whose range is no power of two never
ends, every `TRIAL` never ends, and a power of two gives 0 at once. The host's write never completes, no error is
raised, and only a reset ends it (R280). The model's own: `SEED` and `PICK` with an
`ARG0` never written run on its free content (log 3), the loop is given up as a fault (log 7), and a command that never
ends, with a reset next in the queue, ends in the reset state in one step (log 12). -/
def Obligations.ZeroStreamNeverEnds : Prop :=
  (∀ s : State, Ready s → s.eng = .mcg128 → s.arg0.val = 0 →
    ∃ t, exec .seed s = .next t ∧ t.bank.s0 = 0 ∧ t.bank.s1 = 0)
  ∧ (∀ s : State, Ready s → s.eng = .mcg128 → s.bank.s0 = 0 → s.bank.s1 = 0 →
    (∀ r : U32, r ≠ 0 → (¬ ∃ k, r.toNat = 2 ^ k) →
      exec (.bounded r) s = .fault .neverCompletes ∧ exec (.sample r) s = .fault .neverCompletes
      ∧ (r.toNat = rank (maskBit s) 32 → exec (.pick r) s = .fault .neverCompletes))
    ∧ (∀ k, k < 32 → exec (.bounded (BitVec.ofNat 32 (2 ^ k))) s = .next (resultState 0 s.bank s))
    ∧ (3 ≤ s.ndoors.toNat → s.ndoors.toNat ≤ 32 → exec .trial s = .fault .neverCompletes))
  ∧ (∀ (s : State) (w : Word) (i : Instr) (rest : List HostOp), s.hostOps = .wr 0 w :: rest → decode w = .ok i →
    exec i (popped s rest) = .fault .neverCompletes →
    (rest.head? ≠ some .reset → step s = .fault .neverCompletes)
    ∧ ∀ rest', rest = .reset :: rest' → step s = .next { State.reset with hostOps := rest' })

/-! ### CDF sampler -/

/-- R183, R180: `SAMPLE m` returns the value and leaves the state of `BOUNDED m` from the same state; `m = 0` raises
`E_RANGE`. -/
def Obligations.SampleIsBounded : Prop :=
  (∀ (s : State) (m : U32) (v : Nat) (b : Bank), Ready s → m ≠ 0 → Yields s.eng m s.bank v b →
    exec (.sample m) s = .next (resultState (BitVec.ofNat 64 v) b s))
  ∧ (∀ (s : State) (m : U32), Ready s → m ≠ 0 → exec (.sample m) s = exec (.bounded m) s)
  ∧ (∀ s : State, Ready s → exec (.sample 0) s = .next (errorState 5 0x0000000000000031 s))
  ∧ (∀ m, RefusedUnready (.sample m))
  ∧ IllegalUnless 0x31 (fun w => ∃ m, w = BitVec.ofNat 64 (0x31 + m * 2 ^ 32) ∨ w = BitVec.ofNat 64 (0x131 + m * 2 ^ 32))

/-- R184, R181: on a table that keeps its contract `SAMPLE.C m` takes exactly one step and returns the smallest index
whose entry is above the drawn double, or `m - 1`; `m < 2` and `m > 65` raise `E_RANGE`; the table is not changed. On
a table that breaks its contract it has no result and stops under a name of its own (U1; log 8). That a table with an entry
never written is judged and scanned by its free contents is the model's choice (log 3). -/
def Obligations.SampleByTableReturnsTheFirstGreaterEntry : Prop :=
  (∀ (s : State) (m : U32), Ready s → 2 ≤ m.toNat → m.toNat ≤ 65 → TableOk s m.toNat →
    ∃ k, FirstGreater s m.toNat (frandValue s.eng s.bank) k
      ∧ exec (.sampleC m) s = .next (resultState (BitVec.ofNat 64 k) (nextWord params s.eng s.bank).2 s))
  ∧ (∀ (s : State) (m : U32), Ready s → 2 ≤ m.toNat → m.toNat ≤ 65 → ¬ TableOk s m.toNat →
    exec (.sampleC m) s = .fault .malformedTable)
  ∧ (∀ (s : State) (m : U32), Ready s → (m.toNat < 2 ∨ 65 < m.toNat) →
    exec (.sampleC m) s = .next (errorState 5 (BitVec.ofNat 64 (0x131 + m.toNat * 2 ^ 32)) s))
  ∧ (∀ m, RefusedUnready (.sampleC m))
  ∧ IllegalUnless 0x31 (fun w => ∃ m, w = BitVec.ofNat 64 (0x31 + m * 2 ^ 32) ∨ w = BitVec.ofNat 64 (0x131 + m * 2 ^ 32))

/-- `f64_lt` on non-negative patterns that are not NaNs is the unsigned comparison of the patterns
(`93_implementation_defined.md` G4), and it is false on a NaN and on `-0 < +0` (`00_scope.md` section 6). -/
def Obligations.TableComparisonOrdersPatterns : Prop :=
  (∀ a b : Word, a.toNat ≤ 0x7FF0000000000000 → b.toNat ≤ 0x7FF0000000000000 →
    f64Lt a b = decide (a.toNat < b.toNat))
  ∧ (∀ a b : Word, f64IsNaN a = true ∨ f64IsNaN b = true → f64Lt a b = false)
  ∧ f64Lt 0x8000000000000000 0x0000000000000000 = false

/-! ### Door-set sampler -/

/-- R196: the scan returns the position of the `k`-th set bit, least significant first, and runs off the mask exactly when
`k` is not below the popcount. -/
def Obligations.KthSetBitIsFound : Prop :=
  ∀ (mask : U32) (k : Nat),
    (k < popcount mask → ∃ pos, pos < 32 ∧ kthSetBit params mask k = some pos ∧ mask.getLsbD pos = true
      ∧ rank mask.getLsbD pos = k)
    ∧ (popcount mask ≤ k → kthSetBit params mask k = none)
    ∧ popcount mask = rank mask.getLsbD 32

/-- R198, R195: `PICK p` draws the ordinal by `Bounded(p)` and returns the one-hot mask and the position of that set bit of
`ARG0[31:0]`; `p = 0` and `p > 32` raise `E_RANGE`; `ARG0[63:32]` is ignored; with another
population there is no next state (R197). That an `ARG0` never written is a mask too, with its free content, is the model's
choice (log 3). -/
def Obligations.PickReturnsTheKthDoor : Prop :=
  (∀ (s : State) (p : U32) (k : Nat) (b : Bank), Ready s → p ≠ 0 → p.toNat = rank (maskBit s) 32 →
    Yields s.eng p s.bank k b →
    ∃ pos, pos < 32 ∧ maskBit s pos = true ∧ rank (maskBit s) pos = k
      ∧ exec (.pick p) s = .next (resultState (pickedWord pos) b s))
  ∧ (∀ (s : State) (p : U32), Ready s → 1 ≤ p.toNat → p.toNat ≤ 32 → p.toNat ≠ rank (maskBit s) 32 →
    ∀ t, exec (.pick p) s ≠ .next t)
  ∧ (∀ (s : State) (p : U32), Ready s → (p = 0 ∨ 32 < p.toNat) →
    exec (.pick p) s = .next (errorState 5 (BitVec.ofNat 64 (0x32 + p.toNat * 2 ^ 32)) s))
  ∧ (∀ p, RefusedUnready (.pick p))
  ∧ IllegalUnless 0x32 (fun w => ∃ p, w = BitVec.ofNat 64 (0x32 + p * 2 ^ 32) ∨ w = BitVec.ofNat 64 (0x132 + p * 2 ^ 32))

/-- R199, R195: `PICK.C p` takes the ordinal from the table, with exactly one step; `p < 2` and `p > 32` raise `E_RANGE`;
a table that breaks its contract (R182, U1; log 8) and another population (R197) have no next state. That an `ARG0`
or an entry never written is read with its free content is the model's choice (log 3). -/
def Obligations.PickByTableReturnsTheKthDoor : Prop :=
  (∀ (s : State) (p : U32), Ready s → 2 ≤ p.toNat → p.toNat = rank (maskBit s) 32 → TableOk s p.toNat →
    ∃ k pos, FirstGreater s p.toNat (frandValue s.eng s.bank) k
      ∧ pos < 32 ∧ maskBit s pos = true ∧ rank (maskBit s) pos = k
      ∧ exec (.pickC p) s = .next (resultState (pickedWord pos) (nextWord params s.eng s.bank).2 s))
  ∧ (∀ (s : State) (p : U32), Ready s → 2 ≤ p.toNat → p.toNat = rank (maskBit s) 32 → ¬ TableOk s p.toNat →
    exec (.pickC p) s = .fault .malformedTable)
  ∧ (∀ (s : State) (p : U32), Ready s → 2 ≤ p.toNat → p.toNat ≤ 32 → p.toNat ≠ rank (maskBit s) 32 →
    ∀ t, exec (.pickC p) s ≠ .next t)
  ∧ (∀ (s : State) (p : U32), Ready s → (p.toNat < 2 ∨ 32 < p.toNat) →
    exec (.pickC p) s = .next (errorState 5 (BitVec.ofNat 64 (0x132 + p.toNat * 2 ^ 32)) s))
  ∧ (∀ p, RefusedUnready (.pickC p))
  ∧ IllegalUnless 0x32 (fun w => ∃ p, w = BitVec.ofNat 64 (0x32 + p * 2 ^ 32) ∨ w = BitVec.ofNat 64 (0x132 + p * 2 ^ 32))

/-- A population that differs from the mask's popcount, in either direction, has no result and no next state, whatever the
draw (R197). That the stop is named `populationMismatch`, and that it comes before a malformed table and a draw that never
ends, is the model's choice (log 9, log 10). -/
def Obligations.PopulationMismatchStops : Prop :=
  (∀ (s : State) (p : U32), Ready s → 1 ≤ p.toNat → p.toNat ≤ 32 → p.toNat ≠ rank (maskBit s) 32 →
    exec (.pick p) s = .fault .populationMismatch)
  ∧ (∀ (s : State) (p : U32), Ready s → 2 ≤ p.toNat → p.toNat ≤ 32 → p.toNat ≠ rank (maskBit s) 32 →
    exec (.pickC p) s = .fault .populationMismatch)

/-! ### Game engine -/

/-- R217 with R210 to R216: `TRIAL` draws the car, the first pick, the reveal, the coin and the final pick, in this order,
and returns the outcome and the four doors; only `S` and `RES` change. -/
def Obligations.TrialPlaysOneGame : Prop :=
  (∀ (s : State) (car pick1 revealed coin final : Nat) (b1 b2 b3 b4 b5 : Bank),
    Ready s → 3 ≤ s.ndoors.toNat → s.ndoors.toNat ≤ 32 →
    Yields s.eng s.ndoors s.bank car b1 → Yields s.eng s.ndoors b1 pick1 b2 →
    Chooses s.eng (fun d => decide (d < s.ndoors.toNat) && d != pick1 && d != car)
      (if car = pick1 then s.ndoors.toNat - 1 else s.ndoors.toNat - 2) b2 revealed b3 →
    Yields s.eng 2 b3 coin b4 →
    ((coin = 1 ∧ final = pick1 ∧ b5 = b4)
      ∨ (coin = 0 ∧ Chooses s.eng (fun d => decide (d < s.ndoors.toNat) && d != pick1 && d != revealed)
          (s.ndoors.toNat - 2) b4 final b5)) →
    exec .trial s = .next (resultState (BitVec.ofNat 64 ((if coin = 1 then 2 else 0) + (if final = car then 0 else 1)
      + car * 2 ^ 8 + pick1 * 2 ^ 16 + revealed * 2 ^ 24 + final * 2 ^ 32)) b5 s))
  ∧ RefusedUnready .trial ∧ IllegalUnless 0x40 (fun w => w = 0x0000000000000040)

/-- The source's revealed-door legality and the other properties of every trial (`46_trial.md` section 3, derived there):
the revealed door is neither the first pick nor the car; under Switch the final pick is neither the first pick nor the
revealed door; under Stay the trial wins iff the car is the first pick; the reserved fields are 0. -/
def Obligations.TrialsAreLegal : Prop :=
  ∀ s t : State, Ready s → legal s = true → exec .trial s = .next t →
    let car := resField t 8 8
    let pick1 := resField t 16 8
    let revealed := resField t 24 8
    let final := resField t 32 8
    let stay := resField t 1 1
    let lost := resField t 0 1
    car < s.ndoors.toNat ∧ pick1 < s.ndoors.toNat ∧ revealed < s.ndoors.toNat ∧ final < s.ndoors.toNat
    ∧ revealed ≠ pick1 ∧ revealed ≠ car
    ∧ (stay = 0 → final ≠ pick1 ∧ final ≠ revealed) ∧ (stay = 1 → final = pick1)
    ∧ (lost = 0 ↔ final = car) ∧ (stay = 1 → (lost = 0 ↔ car = pick1))
    ∧ resField t 2 6 = 0 ∧ resField t 40 24 = 0

/-- `TRIAL` in a legal configured block has no failure state: it answers with no error, or never ends
("no retries, no failure states", `46_trial.md` section 1). -/
def Obligations.TrialHasNoFailureState : Prop :=
  ∀ s : State, Ready s → legal s = true →
    (∃ t, exec .trial s = .next t ∧ t.err = false ∧ t.arg0 = s.arg0 ∧ t.cdf = s.cdf)
    ∨ exec .trial s = .fault .neverCompletes

/-- Three doors (`46_trial.md` section 2, corner cases): when the car is not the first pick the switch always wins; when it
is, the switch always loses. -/
def Obligations.ThreeDoorSwitchWinsIffFirstPickMissed : Prop :=
  ∀ s t : State, Ready s → s.ndoors = 3 → exec .trial s = .next t → resField t 1 1 = 0 →
    (resField t 0 1 = 0 ↔ resField t 8 8 ≠ resField t 16 8)

/-! ### Configuration -/

/-- R230, R231 and the order of R252: what `CONFIG n, e` does in every case. -/
def Obligations.ConfigSelectsAndSeeds : Prop :=
  (∀ (s : State) (n : U32) (id : BitVec 8), s.err = false →
    (s.cfg = true → exec (.config n id) s = .next (errorState 6 (encode (.config n id)) s))
    ∧ (s.cfg = false → (n.toNat < 3 ∨ 32 < n.toNat) →
        exec (.config n id) s = .next (errorState 1 (encode (.config n id)) s))
    ∧ (s.cfg = false → 3 ≤ n.toNat → n.toNat ≤ 32 → 2 < id.toNat →
        exec (.config n id) s = .next (errorState 2 (encode (.config n id)) s))
    ∧ (s.cfg = false → 3 ≤ n.toNat → n.toNat ≤ 32 → ∀ e : Engine, id.toNat = e.code.toNat →
        exec (.config n id) s = .next { s with
          eng := e, ndoors := n, cfg := true, bank := seeded e 0xC68FA87D83F72455 s.bank }))
  ∧ (∀ (s : State) (n : U32) (id : BitVec 8), s.err = true → exec (.config n id) s = .next s)
  ∧ Engine.mcg128.code = 0 ∧ Engine.sfcCounter.code = 1 ∧ Engine.sfcPcgCounter.code = 2
  ∧ IllegalUnless 0x01 (fun w => ∃ n e, e < 256 ∧ w = BitVec.ofNat 64 (0x01 + e * 2 ^ 16 + n * 2 ^ 32))

/-- R233: the configuration is fixed until reset (a reset that the step performs, or that abandons the
step's command because it never ends, R280); a `CONFIG` while `CFG = 1` raises `E_LOCKED` and changes nothing else; a
failed one leaves `CFG = 0` and can be tried again after `ERRCLR`. -/
def Obligations.ConfigurationIsFixedUntilReset : Prop :=
  (∀ s t : State, step s = .next t → s.cfg = true → s.hostOps.head? ≠ some .reset →
    (∀ (w : Word) (rest : List HostOp), s.hostOps = .wr 0 w :: .reset :: rest →
      runCommand w (popped s (.reset :: rest)) ≠ .fault .neverCompletes) →
    t.cfg = true ∧ t.eng = s.eng ∧ t.ndoors = s.ndoors)
  ∧ (∀ (s : State) (n : U32) (id : BitVec 8), Ready s →
    exec (.config n id) s = .next (errorState 6 (encode (.config n id)) s))
  ∧ (∀ (s t : State) (n : U32) (id : BitVec 8), s.err = false → s.cfg = false → exec (.config n id) s = .next t →
    t.err = true → t.cfg = false ∧ exec .errclr t = .next { s with errcode := 0, errcmd := 0 })

/-! ### Who writes what -/

/-- R27: the twelve result commands write `RES` on success; `CONFIG`, `SEED`, `ERRCLR` never do; no command does when it
raises an error or is discarded. -/
def Obligations.OnlyResultCommandsWriteRes : Prop :=
  ∀ (i : Instr) (s t : State), exec i s = .next t →
    (writesRes i = false → t.res = s.res)
    ∧ (s.err = true ∨ t.err = true → t.res = s.res)
    ∧ (writesRes i = true → s.err = false → t.err = false → t.res.written = true)

/-- No command writes `ARG0`, the CDF table or the host's side (`10_state.md` sections 2 and 5). -/
def Obligations.NoCommandWritesItsOperands : Prop :=
  ∀ (i : Instr) (s t : State), exec i s = .next t →
    t.arg0 = s.arg0 ∧ t.cdf = s.cdf ∧ t.hostOps = s.hostOps ∧ t.hostRead = s.hostRead

/-- R34: the host neither reads nor writes `S` directly, and it moves only through `CONFIG`, `SEED` and the drawing
commands. -/
def Obligations.EngineStateIsOpaque : Prop :=
  (∀ (s : State) (b : Bank) (idx : RegIndex), readReg params idx { s with bank := b } = readReg params idx s)
  ∧ (∀ (s t : State) (idx : RegIndex) (rest : List HostOp), s.hostOps = .rd idx :: rest → step s = .next t → t.bank = s.bank)
  ∧ (∀ (s t : State) (idx : RegIndex) (v : Word) (rest : List HostOp), s.hostOps = .wr idx v :: rest → idx ≠ 0 →
      step s = .next t → t.bank = s.bank)
  ∧ (∀ (i : Instr) (s t : State), exec i s = .next t → t.bank ≠ s.bank →
      needsEngine i = true ∨ ∃ n id, i = .config n id)

/-- How many steps a command takes (`70_reset_and_hazards.md` section 3): none for the rotates, `ERRCLR` and a refused or
discarded command, one for `NEXT`, `RAND32`, `RAND52`, `FRAND`, `SAMPLE.C`, `PICK.C`, at least one for `BOUNDED`, `SAMPLE`,
`PICK`, at least three for `TRIAL`. -/
def Obligations.CommandsAdvanceTheStream : Prop :=
  ∀ (i : Instr) (s t : State), exec i s = .next t → i ≠ .seed → (∀ n id, i ≠ .config n id) →
    (s.cfg = true → 3 ≤ s.ndoors.toNat ∧ s.ndoors.toNat ≤ 32) →
    ∃ n, t.bank = bankAfter params s.eng n s.bank
      ∧ (s.err = true ∨ t.err = true ∨ needsEngine i = false → n = 0)
      ∧ (s.err = false → t.err = false →
          (i = .next ∨ i = .rand32 ∨ i = .rand52 ∨ i = .frand ∨ (∃ m, i = .sampleC m) ∨ (∃ p, i = .pickC p) → n = 1)
          ∧ ((∃ r, i = .bounded r) ∨ (∃ m, i = .sample m) ∨ (∃ p, i = .pick p) → 1 ≤ n)
          ∧ (i = .trial → 3 ≤ n))

/-! ### The register space -/

/-- R51: what a host read of each register returns and what a host write of each does, with or without an error pending
(R57). A write of `CMD` executes the word. The model's own: a command that never ends, with a reset next in the queue, is
abandoned to it (R280; log 12), the reserved indices are refused by name (U7; log 11), and a register never written reads
as its free content (log 3). -/
def Obligations.RegisterMapReadsAndWrites : Prop :=
  ∀ (s : State) (rest : List HostOp) (idx : RegIndex),
    (s.hostOps = .rd idx :: rest →
      (idx.toNat = 0 → step s = .next { popped s rest with hostRead := some 0 })
      ∧ (idx.toNat = 1 → step s = .next { popped s rest with hostRead := some (statusWord s) })
      ∧ (idx.toNat = 2 → step s = .next { popped s rest with hostRead := some s.arg0.val })
      ∧ (idx.toNat = 3 → step s = .next { popped s rest with hostRead := some s.res.val })
      ∧ (idx.toNat = 4 → step s = .next { popped s rest with hostRead := some s.errcmd })
      ∧ (idx.toNat = 5 → step s = .next { popped s rest with
          hostRead := some (if s.cfg = true then BitVec.ofNat 64 s.ndoors.toNat else 0) })
      ∧ (0x06 ≤ idx.toNat → idx.toNat ≤ 0x3F → step s = .refused (.reservedIndex idx))
      ∧ (∀ i : Fin 64, idx.toNat = 0x40 + i.val →
          step s = .next { popped s rest with hostRead := some (s.cdf.get i).val }))
    ∧ (∀ v : Word, s.hostOps = .wr idx v :: rest →
      (idx.toNat = 0 → step s = runCommand v (popped s rest)
        ∨ (runCommand v (popped s rest) = .fault .neverCompletes
            ∧ ∃ rest', rest = .reset :: rest' ∧ step s = .next { State.reset with hostOps := rest' }))
      ∧ (idx.toNat = 1 ∨ idx.toNat = 3 ∨ idx.toNat = 4 ∨ idx.toNat = 5 → step s = .next (popped s rest))
      ∧ (idx.toNat = 2 → step s = .next { popped s rest with arg0 := { val := v, written := true } })
      ∧ (0x06 ≤ idx.toNat → idx.toNat ≤ 0x3F → step s = .refused (.reservedIndex idx))
      ∧ (∀ i : Fin 64, idx.toNat = 0x40 + i.val →
          step s = .next { popped s rest with cdf := s.cdf.set i { val := v, written := true } }))

/-- R56: a read changes nothing of the block, and what it returns depends on the block alone, so that it is returned again
however many reads come between; a second write of the same value to `ARG0` or a table entry changes nothing; a second
write of the same word to `CMD` can. -/
def Obligations.ReadsHaveNoSideEffects : Prop :=
  (∀ (s t : State) (idx : RegIndex) (rest : List HostOp), s.hostOps = .rd idx :: rest → step s = .next t →
    ∃ v, t = { s with hostOps := rest, hostRead := some v }
      ∧ ∀ (ops : List HostOp) (h : Option Word),
        step { s with hostOps := .rd idx :: ops, hostRead := h } = .next { s with hostOps := ops, hostRead := some v })
  ∧ (∀ (s t : State) (idx : RegIndex) (v : Word) (rest : List HostOp), idx ≠ 0 →
    s.hostOps = .wr idx v :: .wr idx v :: rest → step s = .next t →
    step t = .next { t with hostOps := rest })
  ∧ ∃ (s t u : State) (w : Word), s.hostOps = [.wr 0 w, .wr 0 w] ∧ step s = .next t ∧ step t = .next u ∧ u.res ≠ t.res

/-- R30: `STATUS` is composed of the fields, a read of index `0x01` returns it, and a write there changes nothing. -/
def Obligations.StatusShowsTheFields : Prop :=
  (∀ s : State, (statusWord s).toNat =
    (if s.cfg = true then 1 else 0) + (if s.err = true then 2 else 0)
      + (if s.cfg = true then s.eng.code.toNat * 2 ^ 4 else 0) + s.errcode.toNat * 2 ^ 8)
  ∧ (∀ (s : State) (rest : List HostOp), s.hostOps = .rd 0x01 :: rest →
      step s = .next { popped s rest with hostRead := some (statusWord s) })
  ∧ (∀ (s : State) (v : Word) (rest : List HostOp), s.hostOps = .wr 0x01 v :: rest → step s = .next (popped s rest))

/-! ### Reset, idling, invariants -/

/-- R37: the state after reset: `CFG`, `ERR`, `ERRCODE` and `ERRCMD` are 0; `ARG0`, `RES` and the table entries are marked
as never written; and whatever `ENG`, `NDOORS` and `S` hold, for which the spec's `none` is `CFG = 0`, `STATUS`, `ERRCMD`
and `NDOORS` read 0, the commands that need an engine fail, and a `CONFIG` with legal operands succeeds. The contents of
these elements at reset are the model's own (log 3, log 4, log 5) and are not stated here. -/
def Obligations.StateAfterReset : Prop :=
  State.reset.cfg = false ∧ State.reset.err = false ∧ State.reset.errcode = 0 ∧ State.reset.errcmd = 0
  ∧ State.reset.arg0.written = false ∧ State.reset.res.written = false
  ∧ (∀ j : Fin 64, (State.reset.cdf.get j).written = false)
  ∧ ∀ (e : Engine) (doors : U32) (b : Bank),
    let s := { State.reset with eng := e, ndoors := doors, bank := b }
    statusWord s = 0 ∧ readReg params 0x01 s = some 0 ∧ readReg params 0x04 s = some 0 ∧ readReg params 0x05 s = some 0
    ∧ (∀ i : Instr, needsEngine i = true → exec i s = .next (errorState 4 (encode i) s))
    ∧ (∀ (n : U32) (id : BitVec 8), 3 ≤ n.toNat → n.toNat ≤ 32 → id.toNat ≤ 2 →
        ∃ t, exec (.config n id) s = .next t ∧ Ready t)

/-- R280: a reset keeps nothing of the block's state, whatever it was; the platform's queue goes on (log 1). -/
def Obligations.ResetKeepsNothing : Prop :=
  ∀ (s : State) (rest : List HostOp), s.hostOps = .reset :: rest → step s = .next { State.reset with hostOps := rest }

/-- With no host operation to perform the block does nothing (`20_memory.md` section 4; log 1). -/
def Obligations.IdleBlockIsStill : Prop :=
  ∀ s : State, s.hostOps = [] → step s = .next s

/-- Every step keeps a legal state legal: the recorded error is one the recorded word can raise, `ERR = 0` means the error
registers are 0, and a configured block has `3 <= NDOORS <= 32` (R25, R28, R250, R251). -/
def Obligations.StepKeepsTheStateLegal : Prop :=
  ∀ s t : State, legal s = true → step s = .next t → legal t = true

/-- The reset state is legal. -/
def Obligations.ResetStateIsLegal : Prop := legal State.reset = true

/-- The checked step faults exactly where the operation reads an element that nothing has written (R35, U6), and is the
step everywhere else. The reads are spelled out in `ReadsNone`: a host read of `ARG0`, `RES` or `CDF[j]`; `ROTL`, `ROTR`,
`SEED`, `PICK`, `PICK.C` past the checks of R88 with `ARG0` never written; `SAMPLE.C m`, `PICK.C m` past them with some
`CDF[0 .. m-2]` never written. That `step` itself never gives this fault is the model's choice (log 3). -/
def Obligations.CheckedStepFaultsOnUnwrittenReads : Prop :=
  (∀ (s : State) (op : HostOp) (rest : List HostOp), s.hostOps = op :: rest →
    (ReadsNone op s → checkedStep s = .fault .unwrittenElement)
    ∧ (¬ ReadsNone op s → checkedStep s = step s)
    ∧ (s.arg0.written = true → s.res.written = true → (∀ j : Fin 64, (s.cdf.get j).written = true) → checkedStep s = step s))
  ∧ (∀ s : State, s.hostOps = [] → checkedStep s = step s)
  ∧ ∀ s : State, step s ≠ .fault .unwrittenElement
end

