-- ==== Sys2Proof/Laws/Decode.lean ====
section
/-! SUPPORT. The fields of a command word built by `commandWord` (R80): each field reads back, the reserved ones are
zero. -/

namespace Sys2Proof

/-- Bit `k` of a command word, by fields. -/
theorem commandWord_getLsbD (op : BitVec 8) (c : BitVec 1) (sub : BitVec 8) (imm : U32) (k : Nat) :
    (commandWord op c sub imm).getLsbD k =
      (decide (k < 64) && (op.getLsbD k || (!decide (k < 8) && c.getLsbD (k - 8))
        || (!decide (k < 16) && sub.getLsbD (k - 16)) || (!decide (k < 32) && imm.getLsbD (k - 32)))) := by
  unfold commandWord
  simp only [BitVec.getLsbD_or, BitVec.getLsbD_shiftLeft, BitVec.getLsbD_setWidth]
  by_cases h : k < 64
  · have h8 : k - 8 < 64 := by omega
    have h16 : k - 16 < 64 := by omega
    have h32 : k - 32 < 64 := by omega
    simp [h, h8, h16, h32]
  · simp [h]

theorem opField_commandWord (op : BitVec 8) (c : BitVec 1) (sub : BitVec 8) (imm : U32) :
    opField (commandWord op c sub imm) = op := by
  ext k hk
  simp only [opField, BitVec.getElem_extractLsb', commandWord_getLsbD]
  simp [show k < 64 by omega, show k < 8 by omega, show k < 16 by omega, show k < 32 by omega]

theorem cField_commandWord (op : BitVec 8) (c : BitVec 1) (sub : BitVec 8) (imm : U32) :
    cField (commandWord op c sub imm) = c := by
  ext k hk
  simp only [cField, BitVec.getElem_extractLsb', commandWord_getLsbD]
  simp [show 8 + k < 64 by omega, show 8 + k < 16 by omega, show 8 + k < 32 by omega, hk]

theorem rsv1Field_commandWord (op : BitVec 8) (c : BitVec 1) (sub : BitVec 8) (imm : U32) :
    rsv1Field (commandWord op c sub imm) = 0 := by
  ext k hk
  simp only [rsv1Field, BitVec.getElem_extractLsb', commandWord_getLsbD]
  simp [show 9 + k < 16 by omega, show 9 + k < 32 by omega, BitVec.getLsbD_of_ge op (9 + k) (by omega),
    BitVec.getLsbD_of_ge c (9 + k - 8) (by omega)]

theorem subField_commandWord (op : BitVec 8) (c : BitVec 1) (sub : BitVec 8) (imm : U32) :
    subField (commandWord op c sub imm) = sub := by
  ext k hk
  simp only [subField, BitVec.getElem_extractLsb', commandWord_getLsbD]
  simp [show 16 + k < 64 by omega, show 16 + k < 32 by omega, hk, BitVec.getLsbD_of_ge op (16 + k) (by omega),
    BitVec.getLsbD_of_ge c (16 + k - 8) (by omega)]

theorem rsv2Field_commandWord (op : BitVec 8) (c : BitVec 1) (sub : BitVec 8) (imm : U32) :
    rsv2Field (commandWord op c sub imm) = 0 := by
  ext k hk
  simp only [rsv2Field, BitVec.getElem_extractLsb', commandWord_getLsbD]
  simp [show 24 + k < 32 by omega, BitVec.getLsbD_of_ge op (24 + k) (by omega),
    BitVec.getLsbD_of_ge c (24 + k - 8) (by omega), BitVec.getLsbD_of_ge sub (24 + k - 16) (by omega)]

theorem immField_commandWord (op : BitVec 8) (c : BitVec 1) (sub : BitVec 8) (imm : U32) :
    immField (commandWord op c sub imm) = imm := by
  ext k hk
  simp only [immField, BitVec.getElem_extractLsb', commandWord_getLsbD]
  simp [show 32 + k < 64 by omega, hk, BitVec.getLsbD_of_ge op (32 + k) (by omega),
    BitVec.getLsbD_of_ge c (32 + k - 8) (by omega), BitVec.getLsbD_of_ge sub (32 + k - 16) (by omega)]

/-- A word whose reserved fields are zero is the command word of its other fields (R80). -/
theorem word_of_fields (w : Word) (h1 : rsv1Field w = 0) (h2 : rsv2Field w = 0) :
    w = commandWord (opField w) (cField w) (subField w) (immField w) := by
  apply BitVec.eq_of_getLsbD_eq
  intro k hk
  rw [commandWord_getLsbD]
  simp only [opField, cField, subField, immField, BitVec.getLsbD_extractLsb']
  have g1 : ∀ j, (rsv1Field w).getLsbD j = false := by intro j; rw [h1]; simp
  have g2 : ∀ j, (rsv2Field w).getLsbD j = false := by intro j; rw [h2]; simp
  simp only [rsv1Field, rsv2Field, BitVec.getLsbD_extractLsb'] at g1 g2
  rcases Nat.lt_or_ge k 8 with h | h
  · simp [hk, h, show k < 16 by omega, show k < 32 by omega]
  rcases Nat.lt_or_ge k 9 with h' | h'
  · obtain rfl : k = 8 := by omega
    simp
  rcases Nat.lt_or_ge k 16 with h'' | h''
  · have := g1 (k-9)
    rw [show 9 + (k-9) = k by omega] at this
    simp only [show k - 9 < 7 by omega, decide_true, Bool.true_and] at this
    rw [this]
    simp [show ¬ k < 8 by omega, show ¬ k - 8 < 1 by omega, show k < 16 by omega, show k < 32 by omega]
  rcases Nat.lt_or_ge k 24 with h3 | h3
  · simp [hk, show ¬ k < 8 by omega, show ¬ k - 8 < 1 by omega, show ¬ k < 16 by omega, show k < 32 by omega, show k - 16 < 8 by omega, show 16 + (k - 16) = k by omega]
  rcases Nat.lt_or_ge k 32 with h4 | h4
  · have := g2 (k-24)
    rw [show 24 + (k-24) = k by omega] at this
    simp only [show k - 24 < 8 by omega, decide_true, Bool.true_and] at this
    rw [this]
    simp [show ¬ k < 8 by omega, show ¬ k - 8 < 1 by omega, show ¬ k < 16 by omega, show k < 32 by omega, show ¬ k - 16 < 8 by omega]
  · simp [hk, show ¬ k < 8 by omega, show ¬ k - 8 < 1 by omega, show ¬ k < 16 by omega, show ¬ k < 32 by omega, show ¬ k - 16 < 8 by omega, show k - 32 < 32 by omega, show 32 + (k-32) = k by omega]

end Sys2Proof
end

