-- ==== Sys2Proof/Laws/State.lean ====
section
/-! SUPPORT. The fields of the state after each named update of Machine/Ops.lean, one lemma per field per update, so that
no proof unfolds a record update. -/

namespace Sys2Proof.Machine

@[simp] theorem setRes_bank (s : State) (v : Word) : (s.setRes v).bank = s.bank := rfl
@[simp] theorem setRes_eng (s : State) (v : Word) : (s.setRes v).eng = s.eng := rfl
@[simp] theorem setRes_cfg (s : State) (v : Word) : (s.setRes v).cfg = s.cfg := rfl
@[simp] theorem setRes_ndoors (s : State) (v : Word) : (s.setRes v).ndoors = s.ndoors := rfl
@[simp] theorem setRes_arg0 (s : State) (v : Word) : (s.setRes v).arg0 = s.arg0 := rfl
@[simp] theorem setRes_res (s : State) (v : Word) : (s.setRes v).res = Reg.holding v := rfl
@[simp] theorem setRes_err (s : State) (v : Word) : (s.setRes v).err = s.err := rfl
@[simp] theorem setRes_errcode (s : State) (v : Word) : (s.setRes v).errcode = s.errcode := rfl
@[simp] theorem setRes_errcmd (s : State) (v : Word) : (s.setRes v).errcmd = s.errcmd := rfl
@[simp] theorem setRes_cdf (s : State) (v : Word) : (s.setRes v).cdf = s.cdf := rfl
@[simp] theorem setRes_hostOps (s : State) (v : Word) : (s.setRes v).hostOps = s.hostOps := rfl
@[simp] theorem setRes_hostRead (s : State) (v : Word) : (s.setRes v).hostRead = s.hostRead := rfl

@[simp] theorem setBank_bank (s : State) (b : Bank) : (s.setBank b).bank = b := rfl
@[simp] theorem setBank_eng (s : State) (b : Bank) : (s.setBank b).eng = s.eng := rfl
@[simp] theorem setBank_cfg (s : State) (b : Bank) : (s.setBank b).cfg = s.cfg := rfl
@[simp] theorem setBank_ndoors (s : State) (b : Bank) : (s.setBank b).ndoors = s.ndoors := rfl
@[simp] theorem setBank_arg0 (s : State) (b : Bank) : (s.setBank b).arg0 = s.arg0 := rfl
@[simp] theorem setBank_res (s : State) (b : Bank) : (s.setBank b).res = s.res := rfl
@[simp] theorem setBank_err (s : State) (b : Bank) : (s.setBank b).err = s.err := rfl
@[simp] theorem setBank_errcode (s : State) (b : Bank) : (s.setBank b).errcode = s.errcode := rfl
@[simp] theorem setBank_errcmd (s : State) (b : Bank) : (s.setBank b).errcmd = s.errcmd := rfl
@[simp] theorem setBank_cdf (s : State) (b : Bank) : (s.setBank b).cdf = s.cdf := rfl
@[simp] theorem setBank_hostOps (s : State) (b : Bank) : (s.setBank b).hostOps = s.hostOps := rfl
@[simp] theorem setBank_hostRead (s : State) (b : Bank) : (s.setBank b).hostRead = s.hostRead := rfl

@[simp] theorem setArg0_bank (s : State) (v : Word) : (s.setArg0 v).bank = s.bank := rfl
@[simp] theorem setArg0_eng (s : State) (v : Word) : (s.setArg0 v).eng = s.eng := rfl
@[simp] theorem setArg0_cfg (s : State) (v : Word) : (s.setArg0 v).cfg = s.cfg := rfl
@[simp] theorem setArg0_ndoors (s : State) (v : Word) : (s.setArg0 v).ndoors = s.ndoors := rfl
@[simp] theorem setArg0_arg0 (s : State) (v : Word) : (s.setArg0 v).arg0 = Reg.holding v := rfl
@[simp] theorem setArg0_res (s : State) (v : Word) : (s.setArg0 v).res = s.res := rfl
@[simp] theorem setArg0_err (s : State) (v : Word) : (s.setArg0 v).err = s.err := rfl
@[simp] theorem setArg0_errcode (s : State) (v : Word) : (s.setArg0 v).errcode = s.errcode := rfl
@[simp] theorem setArg0_errcmd (s : State) (v : Word) : (s.setArg0 v).errcmd = s.errcmd := rfl
@[simp] theorem setArg0_cdf (s : State) (v : Word) : (s.setArg0 v).cdf = s.cdf := rfl
@[simp] theorem setArg0_hostOps (s : State) (v : Word) : (s.setArg0 v).hostOps = s.hostOps := rfl
@[simp] theorem setArg0_hostRead (s : State) (v : Word) : (s.setArg0 v).hostRead = s.hostRead := rfl

@[simp] theorem setCdf_bank (s : State) (i : Fin 64) (v : Word) : (s.setCdf i v).bank = s.bank := rfl
@[simp] theorem setCdf_eng (s : State) (i : Fin 64) (v : Word) : (s.setCdf i v).eng = s.eng := rfl
@[simp] theorem setCdf_cfg (s : State) (i : Fin 64) (v : Word) : (s.setCdf i v).cfg = s.cfg := rfl
@[simp] theorem setCdf_ndoors (s : State) (i : Fin 64) (v : Word) : (s.setCdf i v).ndoors = s.ndoors := rfl
@[simp] theorem setCdf_arg0 (s : State) (i : Fin 64) (v : Word) : (s.setCdf i v).arg0 = s.arg0 := rfl
@[simp] theorem setCdf_res (s : State) (i : Fin 64) (v : Word) : (s.setCdf i v).res = s.res := rfl
@[simp] theorem setCdf_err (s : State) (i : Fin 64) (v : Word) : (s.setCdf i v).err = s.err := rfl
@[simp] theorem setCdf_errcode (s : State) (i : Fin 64) (v : Word) : (s.setCdf i v).errcode = s.errcode := rfl
@[simp] theorem setCdf_errcmd (s : State) (i : Fin 64) (v : Word) : (s.setCdf i v).errcmd = s.errcmd := rfl
@[simp] theorem setCdf_cdf (s : State) (i : Fin 64) (v : Word) : (s.setCdf i v).cdf = s.cdf.set i (Reg.holding v) := rfl
@[simp] theorem setCdf_hostOps (s : State) (i : Fin 64) (v : Word) : (s.setCdf i v).hostOps = s.hostOps := rfl
@[simp] theorem setCdf_hostRead (s : State) (i : Fin 64) (v : Word) : (s.setCdf i v).hostRead = s.hostRead := rfl

@[simp] theorem setConfig_bank (s : State) (e : Engine) (n : U32) : (s.setConfig e n).bank = s.bank := rfl
@[simp] theorem setConfig_eng (s : State) (e : Engine) (n : U32) : (s.setConfig e n).eng = e := rfl
@[simp] theorem setConfig_cfg (s : State) (e : Engine) (n : U32) : (s.setConfig e n).cfg = true := rfl
@[simp] theorem setConfig_ndoors (s : State) (e : Engine) (n : U32) : (s.setConfig e n).ndoors = n := rfl
@[simp] theorem setConfig_arg0 (s : State) (e : Engine) (n : U32) : (s.setConfig e n).arg0 = s.arg0 := rfl
@[simp] theorem setConfig_res (s : State) (e : Engine) (n : U32) : (s.setConfig e n).res = s.res := rfl
@[simp] theorem setConfig_err (s : State) (e : Engine) (n : U32) : (s.setConfig e n).err = s.err := rfl
@[simp] theorem setConfig_errcode (s : State) (e : Engine) (n : U32) : (s.setConfig e n).errcode = s.errcode := rfl
@[simp] theorem setConfig_errcmd (s : State) (e : Engine) (n : U32) : (s.setConfig e n).errcmd = s.errcmd := rfl
@[simp] theorem setConfig_cdf (s : State) (e : Engine) (n : U32) : (s.setConfig e n).cdf = s.cdf := rfl
@[simp] theorem setConfig_hostOps (s : State) (e : Engine) (n : U32) : (s.setConfig e n).hostOps = s.hostOps := rfl
@[simp] theorem setConfig_hostRead (s : State) (e : Engine) (n : U32) : (s.setConfig e n).hostRead = s.hostRead := rfl

@[simp] theorem withOps_bank (s : State) (rest : List HostOp) : (s.withOps rest).bank = s.bank := rfl
@[simp] theorem withOps_eng (s : State) (rest : List HostOp) : (s.withOps rest).eng = s.eng := rfl
@[simp] theorem withOps_cfg (s : State) (rest : List HostOp) : (s.withOps rest).cfg = s.cfg := rfl
@[simp] theorem withOps_ndoors (s : State) (rest : List HostOp) : (s.withOps rest).ndoors = s.ndoors := rfl
@[simp] theorem withOps_arg0 (s : State) (rest : List HostOp) : (s.withOps rest).arg0 = s.arg0 := rfl
@[simp] theorem withOps_res (s : State) (rest : List HostOp) : (s.withOps rest).res = s.res := rfl
@[simp] theorem withOps_err (s : State) (rest : List HostOp) : (s.withOps rest).err = s.err := rfl
@[simp] theorem withOps_errcode (s : State) (rest : List HostOp) : (s.withOps rest).errcode = s.errcode := rfl
@[simp] theorem withOps_errcmd (s : State) (rest : List HostOp) : (s.withOps rest).errcmd = s.errcmd := rfl
@[simp] theorem withOps_cdf (s : State) (rest : List HostOp) : (s.withOps rest).cdf = s.cdf := rfl
@[simp] theorem withOps_hostOps (s : State) (rest : List HostOp) : (s.withOps rest).hostOps = rest := rfl
@[simp] theorem withOps_hostRead (s : State) (rest : List HostOp) : (s.withOps rest).hostRead = none := rfl

@[simp] theorem answer_bank (s : State) (v : Word) : (s.answer v).bank = s.bank := rfl
@[simp] theorem answer_eng (s : State) (v : Word) : (s.answer v).eng = s.eng := rfl
@[simp] theorem answer_cfg (s : State) (v : Word) : (s.answer v).cfg = s.cfg := rfl
@[simp] theorem answer_ndoors (s : State) (v : Word) : (s.answer v).ndoors = s.ndoors := rfl
@[simp] theorem answer_arg0 (s : State) (v : Word) : (s.answer v).arg0 = s.arg0 := rfl
@[simp] theorem answer_res (s : State) (v : Word) : (s.answer v).res = s.res := rfl
@[simp] theorem answer_err (s : State) (v : Word) : (s.answer v).err = s.err := rfl
@[simp] theorem answer_errcode (s : State) (v : Word) : (s.answer v).errcode = s.errcode := rfl
@[simp] theorem answer_errcmd (s : State) (v : Word) : (s.answer v).errcmd = s.errcmd := rfl
@[simp] theorem answer_cdf (s : State) (v : Word) : (s.answer v).cdf = s.cdf := rfl
@[simp] theorem answer_hostOps (s : State) (v : Word) : (s.answer v).hostOps = s.hostOps := rfl
@[simp] theorem answer_hostRead (s : State) (v : Word) : (s.answer v).hostRead = some v := rfl

@[simp] theorem raise_bank (e : Error) (cw : Word) (s : State) : (raise e cw s).bank = s.bank := rfl
@[simp] theorem raise_eng (e : Error) (cw : Word) (s : State) : (raise e cw s).eng = s.eng := rfl
@[simp] theorem raise_cfg (e : Error) (cw : Word) (s : State) : (raise e cw s).cfg = s.cfg := rfl
@[simp] theorem raise_ndoors (e : Error) (cw : Word) (s : State) : (raise e cw s).ndoors = s.ndoors := rfl
@[simp] theorem raise_arg0 (e : Error) (cw : Word) (s : State) : (raise e cw s).arg0 = s.arg0 := rfl
@[simp] theorem raise_res (e : Error) (cw : Word) (s : State) : (raise e cw s).res = s.res := rfl
@[simp] theorem raise_err (e : Error) (cw : Word) (s : State) : (raise e cw s).err = true := rfl
@[simp] theorem raise_errcode (e : Error) (cw : Word) (s : State) : (raise e cw s).errcode = errorCode e := rfl
@[simp] theorem raise_errcmd (e : Error) (cw : Word) (s : State) : (raise e cw s).errcmd = cw := rfl
@[simp] theorem raise_cdf (e : Error) (cw : Word) (s : State) : (raise e cw s).cdf = s.cdf := rfl
@[simp] theorem raise_hostOps (e : Error) (cw : Word) (s : State) : (raise e cw s).hostOps = s.hostOps := rfl
@[simp] theorem raise_hostRead (e : Error) (cw : Word) (s : State) : (raise e cw s).hostRead = s.hostRead := rfl

@[simp] theorem clearError_bank (s : State) : (clearError s).bank = s.bank := rfl
@[simp] theorem clearError_eng (s : State) : (clearError s).eng = s.eng := rfl
@[simp] theorem clearError_cfg (s : State) : (clearError s).cfg = s.cfg := rfl
@[simp] theorem clearError_ndoors (s : State) : (clearError s).ndoors = s.ndoors := rfl
@[simp] theorem clearError_arg0 (s : State) : (clearError s).arg0 = s.arg0 := rfl
@[simp] theorem clearError_res (s : State) : (clearError s).res = s.res := rfl
@[simp] theorem clearError_err (s : State) : (clearError s).err = false := rfl
@[simp] theorem clearError_errcode (s : State) : (clearError s).errcode = 0 := rfl
@[simp] theorem clearError_errcmd (s : State) : (clearError s).errcmd = 0 := rfl
@[simp] theorem clearError_cdf (s : State) : (clearError s).cdf = s.cdf := rfl
@[simp] theorem clearError_hostOps (s : State) : (clearError s).hostOps = s.hostOps := rfl
@[simp] theorem clearError_hostRead (s : State) : (clearError s).hostRead = s.hostRead := rfl

@[simp] theorem resetBlock_bank (s : State) : (resetBlock s).bank = State.reset.bank := rfl
@[simp] theorem resetBlock_eng (s : State) : (resetBlock s).eng = State.reset.eng := rfl
@[simp] theorem resetBlock_cfg (s : State) : (resetBlock s).cfg = State.reset.cfg := rfl
@[simp] theorem resetBlock_ndoors (s : State) : (resetBlock s).ndoors = State.reset.ndoors := rfl
@[simp] theorem resetBlock_arg0 (s : State) : (resetBlock s).arg0 = State.reset.arg0 := rfl
@[simp] theorem resetBlock_res (s : State) : (resetBlock s).res = State.reset.res := rfl
@[simp] theorem resetBlock_err (s : State) : (resetBlock s).err = State.reset.err := rfl
@[simp] theorem resetBlock_errcode (s : State) : (resetBlock s).errcode = State.reset.errcode := rfl
@[simp] theorem resetBlock_errcmd (s : State) : (resetBlock s).errcmd = State.reset.errcmd := rfl
@[simp] theorem resetBlock_cdf (s : State) : (resetBlock s).cdf = State.reset.cdf := rfl
@[simp] theorem resetBlock_hostOps (s : State) : (resetBlock s).hostOps = s.hostOps := rfl
@[simp] theorem resetBlock_hostRead (s : State) : (resetBlock s).hostRead = State.reset.hostRead := rfl

end Sys2Proof.Machine
end

