-- ==== Sys2Proof/Laws/Ops.lean ====
section
/-! SUPPORT. What the shared operations can do, said once: the inversion lemma of each operation of the prologue, of the
drawing computations, of the register space and of the step. -/

namespace Sys2Proof.Machine

/-! ### The prologue (R88) -/

theorem unlessPending_pending {s : State} (k : Result) (h : s.err = true) : unlessPending s k = .next s := by
  simp [unlessPending, h]

theorem unlessPending_clear {s : State} (k : Result) (h : s.err = false) : unlessPending s k = k := by
  simp [unlessPending, h]

theorem unlessPending_cases {s t : State} {k : Result} (h : unlessPending s k = .next t) :
    (s.err = true ∧ t = s) ∨ (s.err = false ∧ k = .next t) := by
  cases he : s.err
  · exact .inr ⟨rfl, by simpa [unlessPending, he] using h⟩
  · exact .inl ⟨rfl, by simpa [unlessPending, he] using h.symm⟩

theorem whenConfigured_cases {i : Instr} {s t : State} {k : Result} (h : whenConfigured i s k = .next t) :
    (s.cfg = false ∧ t = raise .notReady (encode i) s) ∨ (s.cfg = true ∧ k = .next t) := by
  cases hc : s.cfg
  · exact .inl ⟨rfl, by simpa [whenConfigured, hc] using h.symm⟩
  · exact .inr ⟨rfl, by simpa [whenConfigured, hc] using h⟩

theorem whenInRange_cases {r : Bool} {i : Instr} {s t : State} {k : Result} (h : whenInRange r i s k = .next t) :
    (r = false ∧ t = raise .range (encode i) s) ∨ (r = true ∧ k = .next t) := by
  cases r
  · exact .inl ⟨rfl, by simpa [whenInRange] using h.symm⟩
  · exact .inr ⟨rfl, by simpa [whenInRange] using h⟩

/-- Everything a command with the full prologue can do when it answers a next state. -/
theorem drawing_cases {r : Bool} {i : Instr} {s t : State} {k : Result} (h : drawing r i s k = .next t) :
    (s.err = true ∧ t = s)
    ∨ (s.err = false ∧ s.cfg = false ∧ t = raise .notReady (encode i) s)
    ∨ (s.err = false ∧ s.cfg = true ∧ r = false ∧ t = raise .range (encode i) s)
    ∨ (s.err = false ∧ s.cfg = true ∧ r = true ∧ k = .next t) := by
  rcases unlessPending_cases h with ⟨he, ht⟩ | ⟨he, h⟩
  · exact .inl ⟨he, ht⟩
  · rcases whenConfigured_cases h with ⟨hc, ht⟩ | ⟨hc, h⟩
    · exact .inr (.inl ⟨he, hc, ht⟩)
    · rcases whenInRange_cases h with ⟨hr, ht⟩ | ⟨hr, h⟩
      · exact .inr (.inr (.inl ⟨he, hc, hr, ht⟩))
      · exact .inr (.inr (.inr ⟨he, hc, hr, h⟩))

/-- In a configured block with no error pending, a command whose operand is in range runs. -/
theorem drawing_ready {r : Bool} {i : Instr} {s : State} {k : Result} (he : s.err = false) (hc : s.cfg = true)
    (hr : r = true) : drawing r i s k = k := by
  simp [drawing, unlessPending, whenConfigured, whenInRange, he, hc, hr]

theorem drawing_pending {r : Bool} {i : Instr} {s : State} {k : Result} (he : s.err = true) :
    drawing r i s k = .next s := by
  simp [drawing, unlessPending, he]

theorem drawing_unready {r : Bool} {i : Instr} {s : State} {k : Result} (he : s.err = false) (hc : s.cfg = false) :
    drawing r i s k = .next (raise .notReady (encode i) s) := by
  simp [drawing, unlessPending, whenConfigured, he, hc]

theorem drawing_outOfRange {i : Instr} {s : State} {k : Result} (he : s.err = false) (hc : s.cfg = true) :
    drawing false i s k = .next (raise .range (encode i) s) := by
  simp [drawing, unlessPending, whenConfigured, whenInRange, he, hc]

/-! ### Drawing computations -/

@[simp] theorem thenDraw_done {α β : Type} (a : α) (b : Bank) (k : α → Bank → Drawn β) :
    thenDraw (.done a b) k = k a b := rfl

@[simp] theorem thenDraw_stop {α β : Type} (f : Fault) (k : α → Bank → Drawn β) :
    thenDraw (.stop f) k = .stop f := rfl

theorem thenDraw_eq_done {α β : Type} {x : Drawn α} {k : α → Bank → Drawn β} {v : β} {b' : Bank}
    (h : thenDraw x k = .done v b') : ∃ a b, x = .done a b ∧ k a b = .done v b' := by
  cases x with
  | done a b => exact ⟨a, b, rfl, h⟩
  | stop f => simp at h

theorem thenDraw_eq_stop {α β : Type} {x : Drawn α} {k : α → Bank → Drawn β} {f : Fault}
    (h : thenDraw x k = .stop f) : x = .stop f ∨ ∃ a b, x = .done a b ∧ k a b = .stop f := by
  cases x with
  | done a b => exact .inr ⟨a, b, rfl, h⟩
  | stop g => exact .inl (by simpa using h)

@[simp] theorem finish_done (s : State) (v : Word) (b : Bank) :
    finish s (.done v b) = .next ((s.setBank b).setRes v) := rfl

@[simp] theorem finish_stop (s : State) (f : Fault) : finish s (.stop f) = .fault f := rfl

theorem finish_cases {s t : State} {x : Drawn Word} (h : finish s x = .next t) :
    ∃ v b, x = .done v b ∧ t = (s.setBank b).setRes v := by
  cases x with
  | done v b => exact ⟨v, b, rfl, by simpa using h.symm⟩
  | stop f => simp at h

@[simp] theorem zext64_done (v : U32) (b : Bank) : zext64 (.done v b) = .done (v.setWidth 64) b := rfl

@[simp] theorem zext64_stop (f : Fault) : zext64 (.stop f) = .stop f := rfl

theorem foundDoor_eq_done {pos : Option Nat} {b b' : Bank} {p : Nat} (h : foundDoor pos b = .done p b') :
    pos = some p ∧ b' = b := by
  cases pos with
  | none => simp [foundDoor] at h
  | some q => simp [foundDoor] at h; exact ⟨by rw [h.1], h.2.symm⟩

theorem whenPopulation_eq (mask p : U32) (x : Drawn Nat) (h : p.toNat = popcount mask) :
    whenPopulation mask p x = x := by
  simp [whenPopulation, h]

theorem whenPopulation_ne (mask p : U32) (x : Drawn Nat) (h : p.toNat ≠ popcount mask) :
    whenPopulation mask p x = .stop .populationMismatch := by
  simp [whenPopulation, h]

/-! ### Engine steps -/

@[simp] theorem bankAfter_zero (c : Config) (e : Engine) (b : Bank) : bankAfter c e 0 b = b := rfl

theorem bankAfter_succ (c : Config) (e : Engine) (n : Nat) (b : Bank) :
    bankAfter c e (n + 1) b = bankAfter c e n (nextWord c e b).2 := rfl

theorem bankAfter_add (c : Config) (e : Engine) (m n : Nat) (b : Bank) :
    bankAfter c e (m + n) b = bankAfter c e n (bankAfter c e m b) := by
  induction m generalizing b with
  | zero => simp
  | succ m ih => rw [Nat.succ_add, bankAfter_succ, bankAfter_succ, ih]

theorem rand32_bank (c : Config) (e : Engine) (b : Bank) : (rand32 c e b).2 = (nextWord c e b).2 := rfl

theorem frand_bank (c : Config) (e : Engine) (b : Bank) : (frand c e b).2 = (nextWord c e b).2 := rfl

/-- MCG128 never writes `S[2]` and `S[3]` (R124). -/
theorem nextWord_mcg_frame (c : Config) (b : Bank) :
    (nextWord c .mcg128 b).2.s2 = b.s2 ∧ (nextWord c .mcg128 b).2.s3 = b.s3 := ⟨rfl, rfl⟩

/-- A rejection loop that answers a value has redrawn at least once, and answers the half of an accepted product. -/
theorem redraw_eq_done {c : Config} {e : Engine} {range t v : U32} {b' : Bank} :
    ∀ {n : Nat} {b : Bank}, redraw c e range t n b = .done v b' →
      ∃ j, j < n ∧ b' = bankAfter c e (j + 1) b
        ∧ v = hi32 (mul32x32 (rand32 c e (bankAfter c e j b)).1 range)
        ∧ ¬ lo32 (mul32x32 (rand32 c e (bankAfter c e j b)).1 range) < t := by
  intro n
  induction n with
  | zero => intro b h; simp [redraw] at h
  | succ n ih =>
    intro b h
    simp only [redraw] at h
    split at h
    · split at h
      · simp at h
      · obtain ⟨j, hj, hb, hv, hr⟩ := ih h
        exact ⟨j + 1, by omega, hb, hv, hr⟩
    · rename_i hr
      injection h with hv hb
      exact ⟨0, by omega, hb.symm, hv.symm, hr⟩

/-- A rejection loop stops under one name only. -/
theorem redraw_eq_stop {c : Config} {e : Engine} {range t : U32} {f : Fault} :
    ∀ {n : Nat} {b : Bank}, redraw c e range t n b = .stop f → f = redrawStop c := by
  intro n
  induction n with
  | zero => intro b h; simpa [redraw] using h.symm
  | succ n ih =>
    intro b h
    simp only [redraw] at h
    split at h
    · split at h
      · simpa using h.symm
      · exact ih h
    · simp at h

theorem bounded_eq_stop {c : Config} {e : Engine} {range : U32} {b : Bank} {f : Fault}
    (h : bounded c e range b = .stop f) : f = redrawStop c := by
  simp only [bounded] at h
  split at h
  · exact redraw_eq_stop h
  · simp at h

/-! ### The register space and the step -/

theorem hostReads_cases {idx : RegIndex} {s t : State} (h : hostReads idx s = .next t) :
    ∃ v, readReg params idx s = some v ∧ t = s.answer v := by
  unfold hostReads at h
  split at h
  · exact ⟨_, ‹_›, by simpa using h.symm⟩
  · simp at h

/-- Everything a write to a register other than `CMD` can do. -/
theorem writeReg_cases {c : Config} {idx : RegIndex} {v : Word} {s t : State} (h : writeReg c idx v s = some t) :
    t = s ∨ t = s.setArg0 v ∨ t = s.setCdf (cdfIndex idx) v := by
  unfold writeReg at h
  repeat' split at h
  all_goals simp at h
  all_goals simp [h]

theorem abandonedByReset_cases {s t : State} {o : Result} (h : abandonedByReset s o = .next t) :
    o = .next t ∨ (o = .fault .neverCompletes ∧ ∃ rest, s.hostOps = .reset :: rest ∧ t = resetBlock (s.withOps rest)) := by
  unfold abandonedByReset at h
  split at h
  · split at h
    · exact .inr ⟨rfl, _, ‹_›, by simpa using h.symm⟩
    · simp at h
  · exact .inl h

theorem runCommand_cases {cw : Word} {s t : State} (h : runCommand cw s = .next t) :
    (∃ i, decode cw = .ok i ∧ exec i s = .next t)
    ∨ (∃ e, decode cw = .error e ∧ ((s.err = true ∧ t = s) ∨ (s.err = false ∧ t = raise .illegal cw s))) := by
  unfold runCommand at h
  split at h
  · exact .inl ⟨_, ‹_›, h⟩
  · refine .inr ⟨_, ‹_›, ?_⟩
    rcases unlessPending_cases h with ⟨he, ht⟩ | ⟨he, ht⟩
    · exact .inl ⟨he, ht⟩
    · exact .inr ⟨he, by simpa using ht.symm⟩

/-- Everything one step can do when it answers a next state. -/
theorem step_cases {s t : State} (h : step s = .next t) :
    (s.hostOps = [] ∧ t = s)
    ∨ (∃ idx rest v, s.hostOps = .rd idx :: rest ∧ readReg params idx (s.withOps rest) = some v
        ∧ t = (s.withOps rest).answer v)
    ∨ (∃ idx v rest, s.hostOps = .wr idx v :: rest ∧ idx ≠ 0 ∧ writeReg params idx v (s.withOps rest) = some t)
    ∨ (∃ v rest, s.hostOps = .wr 0 v :: rest ∧ abandonedByReset (s.withOps rest) (runCommand v (s.withOps rest)) = .next t)
    ∨ (∃ rest, s.hostOps = .reset :: rest ∧ t = resetBlock (s.withOps rest)) := by
  unfold step performNext at h
  split at h
  · exact .inl ⟨‹_›, by simpa using h.symm⟩
  · rename_i op rest heq
    cases op with
    | rd idx =>
      obtain ⟨v, hv, ht⟩ := hostReads_cases h
      exact .inr (.inl ⟨idx, rest, v, heq, hv, ht⟩)
    | wr idx v =>
      simp only [perform, hostWrites] at h
      split at h
      · rename_i hidx
        subst hidx
        exact .inr (.inr (.inr (.inl ⟨v, rest, heq, h⟩)))
      · refine .inr (.inr (.inl ⟨idx, v, rest, heq, ‹_›, ?_⟩))
        split at h
        · rename_i hw
          injection h with h
          rw [hw, h]
        · simp at h
    | reset => exact .inr (.inr (.inr (.inr ⟨rest, heq, by simpa [perform] using h.symm⟩)))

end Sys2Proof.Machine
end

