-- ==== Sys2Proof/Laws/PerInstr.lean ====
section
/-! SUPPORT. Per instruction: the fields of its command word that no operand reaches (R81, R83). -/

namespace Sys2Proof.Laws.EncodeFields

/-- The `op` column of R83. -/
def opcode : Instr → BitVec 8
  | .config _ _ => 0x01
  | .seed => 0x02
  | .errclr => 0x03
  | .rotl _ => 0x10
  | .rotr _ => 0x11
  | .next => 0x20
  | .rand32 => 0x21
  | .rand52 => 0x22
  | .frand => 0x23
  | .bounded _ => 0x30
  | .sample _ => 0x31
  | .sampleC _ => 0x31
  | .pick _ => 0x32
  | .pickC _ => 0x32
  | .trial => 0x40

/-- The word of the instruction holds its opcode, and its reserved fields are zero (R81, R83). -/
def Statement (i : Instr) : Prop :=
  opField (encode i) = opcode i ∧ rsv1Field (encode i) = 0 ∧ rsv2Field (encode i) = 0

theorem config (n : U32) (e : BitVec 8) : Statement (.config n e) :=
  ⟨opField_commandWord _ _ _ _, rsv1Field_commandWord _ _ _ _, rsv2Field_commandWord _ _ _ _⟩

theorem seed : Statement .seed :=
  ⟨opField_commandWord _ _ _ _, rsv1Field_commandWord _ _ _ _, rsv2Field_commandWord _ _ _ _⟩

theorem errclr : Statement .errclr :=
  ⟨opField_commandWord _ _ _ _, rsv1Field_commandWord _ _ _ _, rsv2Field_commandWord _ _ _ _⟩

theorem rotl (sub : BitVec 8) : Statement (.rotl sub) :=
  ⟨opField_commandWord _ _ _ _, rsv1Field_commandWord _ _ _ _, rsv2Field_commandWord _ _ _ _⟩

theorem rotr (sub : BitVec 8) : Statement (.rotr sub) :=
  ⟨opField_commandWord _ _ _ _, rsv1Field_commandWord _ _ _ _, rsv2Field_commandWord _ _ _ _⟩

theorem next : Statement .next :=
  ⟨opField_commandWord _ _ _ _, rsv1Field_commandWord _ _ _ _, rsv2Field_commandWord _ _ _ _⟩

theorem rand32 : Statement .rand32 :=
  ⟨opField_commandWord _ _ _ _, rsv1Field_commandWord _ _ _ _, rsv2Field_commandWord _ _ _ _⟩

theorem rand52 : Statement .rand52 :=
  ⟨opField_commandWord _ _ _ _, rsv1Field_commandWord _ _ _ _, rsv2Field_commandWord _ _ _ _⟩

theorem frand : Statement .frand :=
  ⟨opField_commandWord _ _ _ _, rsv1Field_commandWord _ _ _ _, rsv2Field_commandWord _ _ _ _⟩

theorem bounded (r : U32) : Statement (.bounded r) :=
  ⟨opField_commandWord _ _ _ _, rsv1Field_commandWord _ _ _ _, rsv2Field_commandWord _ _ _ _⟩

theorem sample (m : U32) : Statement (.sample m) :=
  ⟨opField_commandWord _ _ _ _, rsv1Field_commandWord _ _ _ _, rsv2Field_commandWord _ _ _ _⟩

theorem sampleC (m : U32) : Statement (.sampleC m) :=
  ⟨opField_commandWord _ _ _ _, rsv1Field_commandWord _ _ _ _, rsv2Field_commandWord _ _ _ _⟩

theorem pick (p : U32) : Statement (.pick p) :=
  ⟨opField_commandWord _ _ _ _, rsv1Field_commandWord _ _ _ _, rsv2Field_commandWord _ _ _ _⟩

theorem pickC (p : U32) : Statement (.pickC p) :=
  ⟨opField_commandWord _ _ _ _, rsv1Field_commandWord _ _ _ _, rsv2Field_commandWord _ _ _ _⟩

theorem trial : Statement .trial :=
  ⟨opField_commandWord _ _ _ _, rsv1Field_commandWord _ _ _ _, rsv2Field_commandWord _ _ _ _⟩

end Sys2Proof.Laws.EncodeFields
end

