-- ==== Sys2Proof/Tests/Slice0.lean ====
section
/-! SUPPORT. The model's own tests. Every expected number is from spec/95_test_vectors.md or from the example of the rule
named; each test is one step on a small state. The second half gives, for every statement with hypotheses, states and
operands that meet them (`witness_<statement>`), at the boundaries of each clause. -/

namespace Sys2Proof.Tests

open Sys2Proof.Machine Sys2Proof.Safety Sys2Proof.Claims

-- One theorem after another: `decide +kernel` waits for the theorems before it, and each waiting one holds a thread.
set_option Elab.async false

/-- A configured block with this engine, door count and bank, and nothing else written since reset. -/
def block (e : Engine) (n : U32) (b : Bank) : State := { State.reset with eng := e, cfg := true, ndoors := n, bank := b }

/-- The bank a successful `CONFIG` leaves (95_test_vectors.md section 2.3); `S[2]`, `S[3]` of MCG128 are free. -/
def configured : Engine → Bank
  | .mcg128 => ⟨0x666337B3494C5605, 0x070CBB4010047069, 7, 9⟩
  | .sfcCounter => ⟨0xB627FDA302E0FB78, 0x7C223E392789D9B2, 0x5FDA00D1CEF6A89C, 0x000000000000000D⟩
  | .sfcPcgCounter => ⟨0x4A9A76007E9FA509, 0x3334D4433468BC9A, 0x0176E90F50D6F001, 0x892769E4FD73A80D⟩

/-- Table A of 95_test_vectors.md section 2.6 (0.25, 0.5, 0.75) in `CDF[0..2]`. -/
def tableA (s : State) : State :=
  ((s.setCdf 0 0x3FD0000000000000).setCdf 1 0x3FE0000000000000).setCdf 2 0x3FE8000000000000

/-- `ARG0` written. -/
def arg (v : Word) (s : State) : State := s.setArg0 v

/-- The outcome is a next state with this property. -/
def nextHas (r : Result) (p : State → Bool) : Bool :=
  match r with
  | .next t => p t
  | .fault _ => false
  | .refused _ => false

/-- The outcome is this fault. -/
def stopsAt (r : Result) (f : Fault) : Bool :=
  match r with
  | .next _ => false
  | .fault g => g == f
  | .refused _ => false

/-- The decoder rejects the word for this reason. -/
def rejectedAs (w : Word) (r : Reject) : Bool :=
  match decode w with
  | .ok _ => false
  | .error e => e == r

/-! ### WellFormed: a term each check refuses (R81) -/

theorem test_rotl_amount_64_is_ill_formed : (Instr.rotl 0x40).wellFormed = false := by decide

theorem test_rotr_amount_64_is_ill_formed : (Instr.rotr 0x40).wellFormed = false := by decide

theorem test_rotl_amount_63_is_well_formed : (Instr.rotl 0x3F).wellFormed = true := by decide

/-! ### Decoding: the word of each row, bit by bit from R80 and R83 -/

theorem test_decode_config : decodeTableWord 64 0x0000000300010001 = some (.config 3 1) := by decide

theorem test_decode_config_rng_255 : decodeTableWord 64 0x0000000300FF0001 = some (.config 3 255) := by decide

theorem test_decode_config_32_bits : decodeTableWord 32 0x00000001 = some (.config 0 0) := by decide

theorem test_decode_seed : decodeTableWord 64 0x02 = some .seed := by decide

theorem test_decode_errclr : decodeTableWord 64 0x03 = some .errclr := by decide

theorem test_decode_rotl : decodeTableWord 64 0x0000000000180010 = some (.rotl 24) := by decide

theorem test_decode_rotr : decodeTableWord 64 0x00000000003F0011 = some (.rotr 63) := by decide

theorem test_decode_next : decodeTableWord 64 0x20 = some .next := by decide

theorem test_decode_rand32 : decodeTableWord 64 0x21 = some .rand32 := by decide

theorem test_decode_rand52 : decodeTableWord 64 0x22 = some .rand52 := by decide

theorem test_decode_frand : decodeTableWord 64 0x23 = some .frand := by decide

theorem test_decode_bounded : decodeTableWord 64 0xC000000000000030 = some (.bounded 0xC0000000) := by decide

theorem test_decode_sample : decodeTableWord 64 0x0000000200000031 = some (.sample 2) := by decide

theorem test_decode_sampleC : decodeTableWord 64 0x0000000400000131 = some (.sampleC 4) := by decide

theorem test_decode_pick : decodeTableWord 64 0x0000002100000032 = some (.pick 33) := by decide

theorem test_decode_pickC : decodeTableWord 64 0x0000000300000132 = some (.pickC 3) := by decide

theorem test_decode_trial : decodeTableWord 64 0x40 = some .trial := by decide

/-! The illegal words of 95_test_vectors.md section 2.10. -/

theorem test_decode_zero_word : rejectedAs 0x0000000000000000 .unknownOpcode = true := by decide

theorem test_decode_opcode_ff : rejectedAs 0x00000000000000FF .unknownOpcode = true := by decide

theorem test_decode_errclr_with_c : rejectedAs 0x0000000000000103 .unusedField = true := by decide

theorem test_decode_next_with_imm : rejectedAs 0x0000000100000020 .unusedField = true := by decide

theorem test_decode_next_with_rsv1 : rejectedAs 0x0000000000000220 .reservedField = true := by decide

theorem test_decode_next_with_rsv2 : rejectedAs 0x0000000001000020 .reservedField = true := by decide

theorem test_decode_rotl_64 : rejectedAs 0x0000000000400010 .unusedField = true := by decide

theorem test_decode_bounded_with_c : rejectedAs 0x0000000300000130 .unusedField = true := by decide

theorem test_decode_sample_with_sub : rejectedAs 0x0000000300010031 .unusedField = true := by decide

/-! ### One step of each command -/

/-- R111's example. -/
theorem test_rotl_24 : nextHas (exec (.rotl 24) (arg 0x0123456789ABCDEF State.reset))
    (fun t => t.res == Reg.holding 0x6789ABCDEF012345 && t.arg0.val == 0x0123456789ABCDEF) = true := by decide +kernel

/-- Section 2.1, last data row but two. -/
theorem test_rotl_63 : nextHas (exec (.rotl 63) (arg 0x0123456789ABCDEF State.reset))
    (fun t => t.res.val == 0x8091A2B3C4D5E6F7) = true := by decide +kernel

/-- R112's example. -/
theorem test_rotr_24 : nextHas (exec (.rotr 24) (arg 0x0123456789ABCDEF State.reset))
    (fun t => t.res.val == 0xABCDEF0123456789) = true := by decide +kernel

/-- R110: the amount 0 is the identity. -/
theorem test_rotr_0 : nextHas (exec (.rotr 0) (arg 0x8000000000000001 State.reset))
    (fun t => t.res.val == 0x8000000000000001) = true := by decide +kernel

/-- Section 2.2, MCG128, fourth row. -/
theorem test_next_mcg : nextHas (exec .next (block .mcg128 3 ⟨0x0123456789ABCDEF, 0xFEDCBA9876543210, 5, 6⟩))
    (fun t => t.res.val == 0x86BEF11D04669B97 && t.bank == ⟨0x9AFF7DDF0895C1FB, 0x8B651381126E058F, 5, 6⟩) = true := by
  decide +kernel

/-- Section 2.2, SFC-PCGCounter, last row. -/
theorem test_next_sfcpcg : nextHas (exec .next (block .sfcPcgCounter 3 ⟨1, 2, 3, 0x8C00000000000001⟩))
    (fun t => t.res.val == 0x0000000031800003 && t.bank == ⟨0x2, 0x1B, 0x0000000034800003, 0x08576FAC43FD007C⟩) = true := by
  decide +kernel

/-- Section 2.3, SFCCounter, the seed constant. -/
theorem test_seed_sfc : nextHas (exec .seed (arg 0xC68FA87D83F72455 (block .sfcCounter 3 ⟨1, 2, 3, 4⟩)))
    (fun t => t.bank == configured .sfcCounter) = true := by decide +kernel

/-- Section 2.3, MCG128, seed 1: the unused words stay. -/
theorem test_seed_mcg : nextHas (exec .seed (arg 1 (block .mcg128 3 ⟨1, 2, 3, 4⟩)))
    (fun t => t.bank == ⟨0x49D430D362A89AF1, 0x617ABD3373639149, 3, 4⟩) = true := by decide +kernel

/-- R230's example. -/
theorem test_config_sfc : nextHas (exec (.config 3 1) State.reset)
    (fun t => t.bank == configured .sfcCounter && t.ndoors == 3 && statusWord t == 0x11) = true := by decide +kernel

/-- Section 2.9: both operands wrong reports the doors. -/
theorem test_config_doors_first : nextHas (exec (.config 33 7) State.reset)
    (fun t => statusWord t == 0x102 && t.errcmd == 0x0000002100070001) = true := by decide +kernel

/-- R234's example. -/
theorem test_errclr : nextHas (exec .errclr (raise .range 0x30 (block .sfcCounter 3 ⟨1, 2, 3, 4⟩)))
    (fun t => statusWord t == 0x11 && t.errcmd == 0) = true := by decide +kernel

/-- Section 2.4, the word `0xBD2C344715523C1C`. -/
theorem test_rand32 : nextHas (exec .rand32 (block .sfcPcgCounter 3 (configured .sfcPcgCounter)))
    (fun t => t.res.val == 0x00000000BD2C3447) = true := by decide +kernel

/-- Section 2.4, the word `0xBD2C344715523C1C`. -/
theorem test_rand52 : nextHas (exec .rand52 (block .sfcPcgCounter 3 (configured .sfcPcgCounter)))
    (fun t => t.res.val == 0x000BD2C344715523) = true := by decide +kernel

/-- Section 2.4, the word `0xBD2C344715523C1C`. -/
theorem test_frand : nextHas (exec .frand (block .sfcPcgCounter 3 (configured .sfcPcgCounter)))
    (fun t => t.res.val == 0x3FE7A58688E2AA46) = true := by decide +kernel

/-- Section 2.4, the draw `2^50 - 1`. -/
theorem test_frand_exact : f64Sub 0x3FF3FFFFFFFFFFFF f64One = 0x3FCFFFFFFFFFFFF8 := by decide +kernel

/-- Program P2: one rejected draw. -/
theorem test_bounded_redraws : nextHas (exec (.bounded 0xC0000000) (block .sfcCounter 3 (configured .sfcCounter)))
    (fun t => t.res.val == 0xA421D167 && t.bank == ⟨0x5EA1D220AAA33801, 0x24E2C6AAFD2028EF, 0x5F9E8C8E5E5D2F45, 0xF⟩)
    = true := by decide +kernel

/-- Program P5's last line: the zero stream. -/
theorem test_bounded_never_completes :
    stopsAt (exec (.bounded 3) (block .mcg128 3 ⟨0, 0, 7, 9⟩)) .neverCompletes = true := by decide +kernel

/-- Section 2.5: the first `BOUNDED 100` of MCG128 is 42, and `SAMPLE` is the same. -/
theorem test_sample : nextHas (exec (.sample 100) (block .mcg128 3 (configured .mcg128)))
    (fun t => t.res.val == 42) = true := by decide +kernel

/-- Program P3, the first `SAMPLE.C 4`. -/
theorem test_sampleC : nextHas (exec (.sampleC 4) (tableA (block .sfcPcgCounter 5 (configured .sfcPcgCounter))))
    (fun t => t.res.val == 2 && t.bank.s3 == 0xC89F7AF990AB7E98) = true := by decide +kernel

/-- Section 2.6: the table `0.5, 0.25, 0.75` is a model fault. -/
theorem test_sampleC_malformed : stopsAt (exec (.sampleC 4)
    ((tableA (block .sfcPcgCounter 5 (configured .sfcPcgCounter))).setCdf 0 0x3FE8000000000000)) .malformedTable = true := by
  decide +kernel

/-- Program P3, the first `PICK 3`; `ARG0[63:32]` is ignored (section 2.7). -/
theorem test_pick : nextHas (exec (.pick 3) (arg 0xFFFFFFFF00000016
      (block .sfcPcgCounter 5 ⟨0x3063684355085504, 0x07E27E4D4189D708, 0xA1AE7DA31A60070D, 0x3E5B597464455D8A⟩)))
    (fun t => t.res.val == 0x0000000400000010) = true := by decide +kernel

/-- Section 2.7: `PICK 4` with a mask of three doors is a model fault. -/
theorem test_pick_mismatch : stopsAt (exec (.pick 4) (arg 0x16 (block .sfcPcgCounter 5 (configured .sfcPcgCounter))))
    .populationMismatch = true := by decide +kernel

/-- R199: no entry of `0.25, 0.5` above `r` (here 0.739) gives the last door of `0x16`. -/
theorem test_pickC : nextHas (exec (.pickC 3) (arg 0x16 (tableA (block .sfcPcgCounter 5 (configured .sfcPcgCounter)))))
    (fun t => t.res.val == 0x0000000400000010) = true := by decide +kernel

/-- Section 2.8, MCG128, `N = 3`, first trial. -/
theorem test_trial_three_doors : nextHas (exec .trial (block .mcg128 3 (configured .mcg128)))
    (fun t => t.res.val == 0x0000000102000100) = true := by decide +kernel

/-- Program P3, first trial: five doors, the car picked first, a switch. -/
theorem test_trial_five_doors : nextHas (exec .trial
      (block .sfcPcgCounter 5 ⟨0x74142866AA6DF7D6, 0x6D98B37EF10BA666, 0x70B34CEDBC6D59B2, 0xDDAA72D72463F040⟩))
    (fun t => t.res.val == 0x0000000304010101) = true := by decide +kernel

/-! ### The step -/

/-- Program P4, line 1: an unconfigured block refuses `BOUNDED 3`. -/
theorem test_step_not_ready : nextHas (step (State.reset.withFetchWord 64 0x0000000300000030))
    (fun t => statusWord t == 0x402 && t.errcmd == 0x0000000300000030) = true := by decide +kernel

/-- Section 2.10: an illegal word is reported before `E_NOTREADY`. -/
theorem test_step_illegal_first : nextHas (step (State.reset.withFetchWord 64 0x0000000100000020))
    (fun t => statusWord t == 0x302) = true := by decide +kernel

/-- Program P4, line 14: a word that is not exactly `ERRCLR`'s is discarded while an error is pending. -/
theorem test_step_discards : nextHas (step ((raise .range 0x30 (block .sfcCounter 3 ⟨1, 2, 3, 4⟩)).withFetchWord 64 0x103))
    (fun t => statusWord t == 0x513 && t.errcmd == 0x30) = true := by decide +kernel

/-- R51: a read returns the register. -/
theorem test_step_read : nextHas (step { block .sfcCounter 5 ⟨1, 2, 3, 4⟩ with hostOps := [.rd 0x05] })
    (fun t => t.hostRead == some 5 && t.hostOps == []) = true := by decide +kernel

/-- R51: a write of the last table entry. -/
theorem test_step_write_table : nextHas (step { State.reset with hostOps := [.wr 0x7F 0x3FE0000000000000] })
    (fun t => t.cdf.get 63 == Reg.holding 0x3FE0000000000000 && !(t.cdf.get 62).written) = true := by decide +kernel

/-- R280: a reset ends a command that never ends. -/
theorem test_step_reset_ends_hang : nextHas
    (step { block .mcg128 3 ⟨0, 0, 7, 9⟩ with hostOps := [.wr 0 0x0000000300000030, .reset] })
    (fun t => statusWord t == 0 && t.hostOps == []) = true := by decide +kernel

/-! ### Witnesses: for every statement with hypotheses, states and operands that meet them, clause by clause -/

/-- The state with these host operations to perform. -/
def queued (s : State) (ops : List HostOp) : State := { s with hostOps := ops }

/-- The state with an error pending: `E_RANGE` from `BOUNDED 0`. -/
def pending (s : State) : State := raise .range 0x30 s

/-- Three doors, SFC-Counter, right after `CONFIG`. -/
def sfc3 : State := block .sfcCounter 3 (configured .sfcCounter)

/-- Five doors, SFC-PCGCounter, right after `CONFIG`. -/
def pcg5 : State := block .sfcPcgCounter 5 (configured .sfcPcgCounter)

/-- Three doors, MCG128 in the zero state. -/
def zero3 : State := block .mcg128 3 ⟨0, 0, 7, 9⟩

/-- A full table: `0.5` in all 64 entries. -/
def fullTable (s : State) : State := { s with cdf := Vector.replicate 64 (Reg.holding 0x3FE0000000000000) }

theorem nextHas_exists {r : Result} {p : State → Bool} (h : nextHas r p = true) : ∃ t, r = .next t ∧ p t = true := by
  cases r with
  | next t => exact ⟨t, rfl, h⟩
  | fault _ => cases h
  | refused _ => cases h

theorem stopsAt_eq {r : Result} {f : Fault} (h : stopsAt r f = true) : r = .fault f := by
  cases r with
  | next _ => cases h
  | fault g => simpa [stopsAt] using h
  | refused _ => cases h

/-- The computation has a result. -/
def hasResult {α : Type} (x : Drawn α) : Bool :=
  match x with
  | .done _ _ => true
  | .stop _ => false

theorem drawn_done {α : Type} {x : Drawn α} (h : hasResult x = true) : ∃ v b, x = .done v b := by
  cases x with
  | done v b => exact ⟨v, b, rfl⟩
  | stop _ => cases h

/-- A draw that is accepted at once. -/
theorem yields_first {e : Engine} {r : U32} {b : Bank} {v : Nat} (h : rejected e r b 0 = false)
    (hv : v = draw e b 0 * r.toNat / 2 ^ 32) : Yields e r b v (bankAfter params e 1 b) :=
  ⟨0, fun j hj => absurd hj (Nat.not_lt_zero j), h, hv, rfl⟩

/-- The hypotheses of `IllegalUnless` are met. -/
def illegalInput (op : BitVec 8) (isWord : Word → Prop) : Prop :=
  ∃ (s : State) (w : Word) (rest : List HostOp), s.hostOps = .wr 0 w :: rest ∧ s.err = false
    ∧ w.extractLsb' 0 8 = op ∧ ¬ isWord w

theorem illegal_input {op : BitVec 8} {isWord : Word → Prop} (w : Word) (h : w.extractLsb' 0 8 = op) (h' : ¬ isWord w) :
    illegalInput op isWord := ⟨queued State.reset [.wr 0 w], w, [], rfl, rfl, h, h'⟩

theorem not_imm_word {w : Word} {base : Nat} (hb : base < 2 ^ 32) (h : w.toNat % 2 ^ 32 ≠ base) :
    ¬ ∃ r, w = BitVec.ofNat 64 (base + r * 2 ^ 32) := by
  rintro ⟨r, rfl⟩
  simp only [BitVec.toNat_ofNat] at h
  omega

/-- Bit 16 (in `sub`) is set, so the word is neither form of a sampler. -/
theorem not_sampler_word {w : Word} {base : Nat} (hb : base < 2 ^ 8) (h : 2 ^ 16 ≤ w.toNat % 2 ^ 32) :
    ¬ ∃ r, w = BitVec.ofNat 64 (base + r * 2 ^ 32) ∨ w = BitVec.ofNat 64 (base + 0x100 + r * 2 ^ 32) := by
  rintro ⟨r, rfl | rfl⟩ <;> (simp only [BitVec.toNat_ofNat] at h; omega)

/-- Both clauses of `RefusedUnready`, a part of the statement of each command that needs an engine. -/
theorem witness_RefusedUnready : (pending State.reset).err = true ∧ State.reset.err = false ∧ State.reset.cfg = false := by
  decide

theorem witness_DecodeEncodeRoundTrip : (Instr.rotl 63).wellFormed = true ∧ (Instr.rotr 0).wellFormed = true
    ∧ (Instr.config 0xFFFFFFFF 0xFF).wellFormed = true := by decide

theorem witness_DecodedWordIsTheEncoding : decode 0xFFFFFFFF00FF0001 = .ok (.config 0xFFFFFFFF 0xFF)
    ∧ decode 0x00000000003F0010 = .ok (.rotl 63) := ⟨rfl, rfl⟩

theorem witness_StepRunsTheDecodedCommand :
    (queued sfc3 [.wr 0 0x20, .reset]).hostOps = .wr 0 0x20 :: [.reset] ∧ decode 0x20 = .ok .next
    ∧ (∃ t, exec .next (popped (queued sfc3 [.wr 0 0x20, .reset]) [.reset]) = .next t ∧ t.res.written = true)
    ∧ (queued sfc3 [.wr 0 0x20]).hostOps = .wr 0 0x20 :: [] ∧ ([] : List HostOp).head? ≠ some .reset :=
  ⟨rfl, rfl, nextHas_exists (p := fun t => t.res.written) (by decide +kernel), rfl, by decide⟩

/-- One word for each disjunct of `IllegalByFields`, in its order, and both ends of the `CONFIG` clause. -/
theorem witness_IllegalWordsRaiseIllegal :
    (([0x04, 0x0220, 0x01000020, 0x0101, 0x0103, 0x00010020, 0x0000000100000040, 0x0110, 0x00400011, 0x0000000100000010,
      0x0130, 0x00010030, 0x00010031, 0x00010132] : List Word).all fun w => decide (IllegalByFields w)) = true
    ∧ (queued State.reset [.wr 0 (BitVec.ofNat 64 (0x01 + 3 * 2 ^ 16 + 3 * 2 ^ 32))]).err = false
    ∧ (queued State.reset [.wr 0 (BitVec.ofNat 64 (0x01 + 255 * 2 ^ 16 + 32 * 2 ^ 32))]).cfg = false
    ∧ 3 ≤ 3 ∧ 32 ≤ 32 ∧ 255 < 256 := by decide +kernel

theorem witness_PendingErrorDiscardsCommands :
    (pending sfc3).err = true ∧ (0x0103 : Word) ≠ 0x0000000000000003
    ∧ (queued (pending sfc3) [.wr 0 0x0103]).hostOps = .wr 0 0x0103 :: []
    ∧ readReg params 0x00 (popped (queued (pending sfc3) [.rd 0x00]) []) = some 0
    ∧ (readReg params 0x7F (popped (queued (pending (fullTable sfc3)) [.rd 0x7F]) [])) = some 0x3FE0000000000000
    ∧ (queued (pending sfc3) [.wr 2 5]).hostOps = .wr 2 5 :: []
    ∧ (0x40 : RegIndex).toNat = 64 + (0 : Fin 64).val ∧ (0x7F : RegIndex).toNat = 64 + (63 : Fin 64).val := by
  decide +kernel

theorem witness_ErrclrReturnsFromTheErrorState :
    (queued sfc3 [.wr 0 0x0000000000000003]).hostOps = .wr 0 0x0000000000000003 :: []
    ∧ (queued (pending sfc3) [.wr 0 0x0103]).hostOps = .wr 0 0x0103 :: [] ∧ (0x0103 : Word).extractLsb' 0 8 = 3#8
    ∧ (0x0103 : Word) ≠ 0x0000000000000003 ∧ (0x20 : Word) ≠ 0x0000000000000003
    ∧ (queued (pending sfc3) [.wr 0 0x20]).hostOps = .wr 0 0x20 :: []
    ∧ (queued (pending sfc3) [.wr 0 0x0103]).err = true ∧ (queued sfc3 [.wr 0 0x0103]).err = false := by
  decide +kernel

/-- The two ends of the codes: `E_CONFIG_DOORS` and `E_LOCKED`. -/
theorem witness_ErrorsArePrecise :
    (∃ t, step (queued State.reset [.wr 0 0x0000000200000001]) = .next t ∧ (t.err && t.errcode == 1) = true)
    ∧ (queued State.reset [.wr 0 0x0000000200000001]).err = false
    ∧ (∃ t, step (queued sfc3 [.wr 0 0x0000000300000001]) = .next t ∧ (t.err && t.errcode == 6) = true)
    ∧ (queued sfc3 [.wr 0 0x0000000300000001]).err = false :=
  ⟨nextHas_exists (p := fun t => t.err && t.errcode == 1) (by decide +kernel), rfl,
    nextHas_exists (p := fun t => t.err && t.errcode == 6) (by decide +kernel), rfl⟩

/-- A command discarded with a reset behind it, and `ERRCLR`. -/
theorem witness_FirstErrorIsKept :
    (∃ t, step (queued (pending sfc3) [.wr 0 0x20, .reset]) = .next t ∧ t.err = true)
    ∧ (queued (pending sfc3) [.wr 0 0x20, .reset]).err = true
    ∧ (queued (pending sfc3) [.wr 0 0x20, .reset]).hostOps.head? ≠ some .reset
    ∧ (∃ t, step (queued (pending sfc3) [.wr 0 3]) = .next t ∧ (!t.err) = true) :=
  ⟨nextHas_exists (by decide +kernel), rfl, by decide, nextHas_exists (by decide +kernel)⟩

theorem witness_RotatesMoveBits : 0 < 64 ∧ 1 ≤ 1 ∧ 63 < 64 ∧ (0 = 0) := by decide

theorem witness_RotlRotatesArg0 : (0 : BitVec 8).toNat < 64 ∧ (63 : BitVec 8).toNat < 64 ∧ State.reset.err = false
    ∧ (pending sfc3).err = true
    ∧ illegalInput 0x10 (fun w => ∃ k, k < 64 ∧ w = BitVec.ofNat 64 (0x10 + k * 2 ^ 16)) :=
  ⟨by decide, by decide, rfl, rfl, illegal_input 0x00400010 (by decide) (by decide)⟩

theorem witness_RotrRotatesArg0 : (0 : BitVec 8).toNat < 64 ∧ (63 : BitVec 8).toNat < 64 ∧ State.reset.err = false
    ∧ (pending sfc3).err = true
    ∧ illegalInput 0x11 (fun w => ∃ k, k < 64 ∧ w = BitVec.ofNat 64 (0x11 + k * 2 ^ 16)) :=
  ⟨by decide, by decide, rfl, rfl, illegal_input 0x0000000100000011 (by decide) (by decide)⟩

theorem witness_NextStepsTheSelectedEngine : Ready zero3 ∧ zero3.eng = .mcg128 ∧ Ready sfc3 ∧ sfc3.eng = .sfcCounter
    ∧ Ready pcg5 ∧ pcg5.eng = .sfcPcgCounter ∧ illegalInput 0x20 (fun w => w = 0x0000000000000020) :=
  ⟨by decide, rfl, by decide, rfl, by decide, rfl, illegal_input 0x0120 (by decide) (by decide)⟩

/-- Two banks that agree on what MCG128 uses and not elsewhere; the zero state; `z` at both ends. -/
theorem witness_McgKeepsTrailingZeros :
    (stepMCG128 params ⟨5, 6, 7, 8⟩).2.s0 = (stepMCG128 params ⟨5, 6, 0, 0⟩).2.s0
    ∧ (stepMCG128 params ⟨5, 6, 7, 8⟩).2.s1 = (stepMCG128 params ⟨5, 6, 0, 0⟩).2.s1 ∧ 0 ≤ 128 ∧ 128 ≤ 128
    ∧ Ready zero3 ∧ zero3.eng = .mcg128 ∧ zero3.bank.s0 = 0 ∧ zero3.bank.s1 = 0 := by decide +kernel

theorem witness_SeedReseedsFromArg0 : Ready sfc3 ∧ Ready zero3 ∧ Ready pcg5
    ∧ illegalInput 0x02 (fun w => w = 0x0000000000000002) :=
  ⟨by decide, by decide, by decide, illegal_input 0x00010002 (by decide) (by decide)⟩

theorem witness_SeedForgetsTheOldStream :
    let s := arg 1 (block .mcg128 3 ⟨1, 2, 3, 4⟩)
    let t := arg 1 (block .mcg128 9 ⟨5, 6, 7, 8⟩)
    Ready s ∧ Ready t ∧ s.eng = t.eng ∧ s.arg0.val = t.arg0.val
    ∧ (∃ s', exec .seed s = .next s' ∧ (s'.bank.s2 == 3) = true) ∧ (∃ t', exec .seed t = .next t' ∧ (t'.bank.s2 == 7) = true) :=
  ⟨by decide, by decide, rfl, rfl, nextHas_exists (p := fun s' => s'.bank.s2 == 3) (by decide +kernel),
    nextHas_exists (p := fun t' => t'.bank.s2 == 7) (by decide +kernel)⟩

theorem witness_SeedConstantRestoresTheConfiguredStream :
    let u := arg 0xC68FA87D83F72455 (block .sfcCounter 9 ⟨1, 2, 3, 4⟩)
    State.reset.err = false ∧ State.reset.cfg = false
    ∧ (∃ t, exec (.config 3 1) State.reset = .next t ∧ (!t.err && t.eng == u.eng) = true)
    ∧ Ready u ∧ u.arg0.val = 0xC68FA87D83F72455 :=
  ⟨rfl, rfl, nextHas_exists (p := fun t => !t.err && t.eng == .sfcCounter) (by decide +kernel), by decide, rfl⟩

/-- `TRIAL` under MCG128 completes in one state and never ends in another. -/
theorem witness_UnusedWordsAreNeverRead :
    (block .mcg128 3 (configured .mcg128)).eng = .mcg128
    ∧ (∃ t, exec .trial (block .mcg128 3 (configured .mcg128)) = .next t ∧ (t.eng == .mcg128) = true)
    ∧ zero3.eng = .mcg128 ∧ exec .trial zero3 = .fault .neverCompletes :=
  ⟨rfl, nextHas_exists (p := fun t => t.eng == .mcg128) (by decide +kernel), rfl, stopsAt_eq (by decide +kernel)⟩

theorem witness_CommandsIgnoreOldResults :
    (∃ t, exec .next sfc3 = .next t ∧ (!t.err) = true) ∧ writesRes .next = true ∧ sfc3.err = false
    ∧ (∃ t, exec (.sampleC 4) (tableA pcg5) = .next t ∧ (!t.err) = true)
    ∧ exec (.pick 4) (arg 0x16 sfc3) = .fault .populationMismatch :=
  ⟨nextHas_exists (by decide +kernel), rfl, rfl, nextHas_exists (by decide +kernel), stopsAt_eq (by decide +kernel)⟩

theorem witness_Rand32ReturnsTheTopHalf : Ready sfc3 ∧ illegalInput 0x21 (fun w => w = 0x0000000000000021) :=
  ⟨by decide, illegal_input 0x0121 (by decide) (by decide)⟩

theorem witness_Rand52ReturnsTheTop52Bits : Ready sfc3 ∧ illegalInput 0x22 (fun w => w = 0x0000000000000022) :=
  ⟨by decide, illegal_input 0x0122 (by decide) (by decide)⟩

theorem witness_FrandReturnsAUnitDouble : Ready sfc3 ∧ illegalInput 0x23 (fun w => w = 0x0000000000000023) :=
  ⟨by decide, illegal_input 0x0123 (by decide) (by decide)⟩

/-- The draws at both ends, and two distinct `d` for the last clause's premise to be about. -/
theorem witness_FrandIsExact : 0 < 2 ^ 52 ∧ 2 ^ 52 - 1 < 2 ^ 52 ∧ 1 ≠ 0 ∧ frandBits 1 = frandBits 1
    ∧ frandBits 1 = 0x3CB0000000000000 := by decide +kernel

theorem witness_ThresholdIsTheRemainder : (1 : U32) ≠ 0 ∧ (0xFFFFFFFF : U32) ≠ 0 := by decide

/-- A draw accepted at once and one redrawn (program P2). -/
theorem witness_BoundedReturnsTheFirstAcceptedDraw :
    Ready sfc3 ∧ (1 : U32) ≠ 0 ∧ Yields sfc3.eng 1 sfc3.bank 0 (bankAfter params .sfcCounter 1 sfc3.bank)
    ∧ (0xC0000000 : U32) ≠ 0
    ∧ Yields sfc3.eng 0xC0000000 sfc3.bank 0xA421D167 (bankAfter params .sfcCounter 2 sfc3.bank)
    ∧ illegalInput 0x30 (fun w => ∃ r, w = BitVec.ofNat 64 (0x30 + r * 2 ^ 32)) :=
  ⟨by decide, by decide, yields_first (by decide +kernel) (by decide +kernel), by decide,
    ⟨1, by decide +kernel, by decide +kernel, by decide +kernel, rfl⟩,
    illegal_input 0x0130 (by decide) (not_imm_word (by decide) (by decide))⟩

theorem witness_BoundedNeverCompletesIffNoDrawIsAccepted : Ready zero3 ∧ (3 : U32) ≠ 0
    ∧ exec (.bounded 3) zero3 = .fault .neverCompletes := ⟨by decide, by decide, stopsAt_eq (by decide +kernel)⟩

/-- The ranges 1, `2^31` and one that is no power of two. -/
theorem witness_BoundedValuesAreBelowTheRange :
    (∃ v b, bounded params .sfcCounter 1 (configured .sfcCounter) = .done v b)
    ∧ (∃ v b, bounded params .sfcCounter 0x80000000 (configured .sfcCounter) = .done v b)
    ∧ 31 < 32 ∧ (0x80000000 : U32).toNat = 2 ^ 31 ∧ (1 : U32).toNat = 2 ^ 0
    ∧ (∃ v b, bounded params .sfcCounter 0xC0000000 (configured .sfcCounter) = .done v b) :=
  ⟨drawn_done (by decide +kernel), drawn_done (by decide +kernel), by decide, by decide, by decide,
    drawn_done (by decide +kernel)⟩

theorem witness_BoundedIsUnbiased : (1 : U32) ≠ 0 ∧ (0 : U32).toNat < (1 : U32).toNat
    ∧ (0xFFFFFFFE : U32).toNat < (0xFFFFFFFF : U32).toNat := by decide

theorem witness_ZeroStreamNeverEnds :
    Ready (arg 0 (block .mcg128 3 ⟨1, 2, 3, 4⟩)) ∧ (arg 0 (block .mcg128 3 ⟨1, 2, 3, 4⟩)).arg0.val = 0
    ∧ Ready zero3 ∧ zero3.eng = .mcg128 ∧ zero3.bank.s0 = 0 ∧ zero3.bank.s1 = 0
    ∧ (3 : U32) ≠ 0 ∧ (¬ ∃ k, (3 : U32).toNat = 2 ^ k) ∧ (3 : U32).toNat = rank (maskBit (arg 0x16 zero3)) 32
    ∧ 0 < 32 ∧ 31 < 32 ∧ 3 ≤ zero3.ndoors.toNat ∧ zero3.ndoors.toNat ≤ 32
    ∧ decode 0x0000000300000030 = .ok (.bounded 3)
    ∧ exec (.bounded 3) (popped (queued zero3 [.wr 0 0x0000000300000030]) []) = .fault .neverCompletes
    ∧ exec (.bounded 3) (popped (queued zero3 [.wr 0 0x0000000300000030, .reset]) [.reset]) = .fault .neverCompletes := by
  refine ⟨by decide, rfl, by decide, rfl, rfl, rfl, by decide, ?_, by decide, by decide, by decide, by decide, by decide, rfl,
    stopsAt_eq (by decide +kernel), stopsAt_eq (by decide +kernel)⟩
  rintro ⟨k, hk⟩
  rcases k with _ | _ | k
  · exact absurd hk (by decide)
  · exact absurd hk (by decide)
  · rw [Nat.pow_succ, Nat.pow_succ] at hk
    have h3 : (3 : U32).toNat = 3 := rfl
    omega

theorem witness_SampleIsBounded :
    Ready sfc3 ∧ (1 : U32) ≠ 0 ∧ Yields sfc3.eng 1 sfc3.bank 0 (bankAfter params .sfcCounter 1 sfc3.bank)
    ∧ illegalInput 0x31 (fun w => ∃ m, w = BitVec.ofNat 64 (0x31 + m * 2 ^ 32) ∨ w = BitVec.ofNat 64 (0x131 + m * 2 ^ 32)) :=
  ⟨by decide, by decide, yields_first (by decide +kernel) (by decide +kernel),
    illegal_input 0x00010031 (by decide) (not_sampler_word (base := 0x31) (by decide) (by decide))⟩

/-- Both ends of the table sizes and of the refused ones. -/
theorem witness_SampleByTableReturnsTheFirstGreaterEntry :
    Ready (tableA pcg5) ∧ TableOk (tableA pcg5) (2 : U32).toNat ∧ Ready (fullTable pcg5) ∧ (65 : U32).toNat ≤ 65
    ∧ TableOk (fullTable pcg5) (65 : U32).toNat ∧ (1 : U32).toNat < 2 ∧ 65 < (66 : U32).toNat
    ∧ illegalInput 0x31 (fun w => ∃ m, w = BitVec.ofNat 64 (0x31 + m * 2 ^ 32) ∨ w = BitVec.ofNat 64 (0x131 + m * 2 ^ 32)) :=
  ⟨by decide, by decide +kernel, by decide, by decide, by decide +kernel, by decide, by decide,
    illegal_input 0x00010131 (by decide) (not_sampler_word (base := 0x31) (by decide) (by decide))⟩

theorem witness_TableComparisonOrdersPatterns : (0x7FF0000000000000 : Word).toNat ≤ 0x7FF0000000000000
    ∧ (0 : Word).toNat ≤ 0x7FF0000000000000 ∧ f64IsNaN 0x7FF0000000000001 = true := by decide +kernel

/-- The clauses of `SampleByTable…` and `PickByTable…` on malformed tables: an entry 1.0 (the first that is too large), and
a table that falls. -/
theorem witness_malformed_tables :
    let one := pcg5.setCdf 0 0x3FF0000000000000
    let falling := (tableA (arg 0x16 pcg5)).setCdf 0 0x3FE8000000000000
    Ready one ∧ ¬ TableOk one (2 : U32).toNat ∧ Ready falling ∧ ¬ TableOk falling (65 : U32).toNat
    ∧ (3 : U32).toNat = rank (maskBit falling) 32 ∧ ¬ TableOk falling (3 : U32).toNat := by
  refine ⟨by decide, fun h => absurd (h.1 0 (by decide)).2 (by decide +kernel), by decide,
    fun h => absurd (h.2 0 (by decide)) (by decide +kernel), by decide +kernel, fun h => absurd (h.2 0 (by decide)) (by decide +kernel)⟩

/-- The last bit of the full mask; the empty mask. -/
theorem witness_KthSetBitIsFound : 31 < popcount 0xFFFFFFFF ∧ popcount 0xFFFFFFFF ≤ 32 ∧ popcount 0 ≤ 0 := by decide +kernel

/-- `p = 1`, door 31 alone; `p = 32`, all doors. -/
theorem witness_PickReturnsTheKthDoor :
    let one := arg 0x0000000080000000 sfc3
    let all := arg 0x00000000FFFFFFFF sfc3
    Ready one ∧ (1 : U32) ≠ 0 ∧ (1 : U32).toNat = rank (maskBit one) 32
    ∧ Yields one.eng 1 one.bank 0 (bankAfter params .sfcCounter 1 one.bank)
    ∧ Ready all ∧ (32 : U32).toNat = rank (maskBit all) 32
    ∧ Yields all.eng 32 all.bank 6 (bankAfter params .sfcCounter 1 all.bank) ∧ 32 < (33 : U32).toNat
    ∧ illegalInput 0x32 (fun w => ∃ p, w = BitVec.ofNat 64 (0x32 + p * 2 ^ 32) ∨ w = BitVec.ofNat 64 (0x132 + p * 2 ^ 32)) :=
  ⟨by decide, by decide, by decide +kernel, yields_first (by decide +kernel) (by decide +kernel), by decide, by decide +kernel,
    yields_first (by decide +kernel) (by decide +kernel), by decide,
    illegal_input 0x00010032 (by decide) (not_sampler_word (base := 0x32) (by decide) (by decide))⟩

theorem witness_PickByTableReturnsTheKthDoor :
    let two := arg 0x0000000080000001 (fullTable pcg5)
    let all := arg 0x00000000FFFFFFFF (fullTable pcg5)
    Ready two ∧ (2 : U32).toNat = rank (maskBit two) 32 ∧ TableOk two (2 : U32).toNat
    ∧ Ready all ∧ (32 : U32).toNat = rank (maskBit all) 32 ∧ TableOk all (32 : U32).toNat
    ∧ (1 : U32).toNat < 2 ∧ 32 < (33 : U32).toNat
    ∧ illegalInput 0x32 (fun w => ∃ p, w = BitVec.ofNat 64 (0x32 + p * 2 ^ 32) ∨ w = BitVec.ofNat 64 (0x132 + p * 2 ^ 32)) :=
  ⟨by decide, by decide +kernel, by decide +kernel, by decide, by decide +kernel, by decide +kernel, by decide, by decide,
    illegal_input 0x00010132 (by decide) (not_sampler_word (base := 0x32) (by decide) (by decide))⟩

/-- Too small and too large, at both ends of the domains. -/
theorem witness_PopulationMismatchStops :
    let s := arg 0x16 sfc3
    Ready s ∧ 1 ≤ (1 : U32).toNat ∧ (1 : U32).toNat ≠ rank (maskBit s) 32
    ∧ (32 : U32).toNat ≤ 32 ∧ (32 : U32).toNat ≠ rank (maskBit s) 32
    ∧ 2 ≤ (2 : U32).toNat ∧ (2 : U32).toNat ≠ rank (maskBit s) 32 := by decide +kernel

/-- The hypotheses of `TrialPlaysOneGame` are met. -/
def trialInput (s : State) (car pick1 revealed coin final : Nat) : Prop :=
  ∃ b1 b2 b3 b4 b5, Ready s ∧ 3 ≤ s.ndoors.toNat ∧ s.ndoors.toNat ≤ 32
    ∧ Yields s.eng s.ndoors s.bank car b1 ∧ Yields s.eng s.ndoors b1 pick1 b2
    ∧ Chooses s.eng (fun d => decide (d < s.ndoors.toNat) && d != pick1 && d != car)
      (if car = pick1 then s.ndoors.toNat - 1 else s.ndoors.toNat - 2) b2 revealed b3
    ∧ Yields s.eng 2 b3 coin b4
    ∧ ((coin = 1 ∧ final = pick1 ∧ b5 = b4)
      ∨ (coin = 0 ∧ Chooses s.eng (fun d => decide (d < s.ndoors.toNat) && d != pick1 && d != revealed)
          (s.ndoors.toNat - 2) b4 final b5))

/-- Three doors: both choices forced; `TRIAL`'s illegal words (section 2.8, MCG128, first trial). -/
theorem witness_TrialPlaysOneGame : trialInput (block .mcg128 3 (configured .mcg128)) 1 0 2 0 1
    ∧ illegalInput 0x40 (fun w => w = 0x0000000000000040) :=
  ⟨⟨_, _, _, _, _, by decide, by decide, by decide, yields_first (by decide +kernel) (by decide +kernel),
    yields_first (by decide +kernel) (by decide +kernel), ⟨by decide, .inl ⟨by decide, rfl⟩⟩,
    yields_first (by decide +kernel) (by decide +kernel), .inr ⟨rfl, by decide, .inl ⟨by decide, rfl⟩⟩⟩,
    illegal_input 0x0140 (by decide) (by decide)⟩

/-- Five doors, the car picked first: both choices drawn (program P3, first trial). -/
theorem witness_TrialPlaysOneGame_drawn : trialInput (block .sfcPcgCounter 5
    ⟨0x74142866AA6DF7D6, 0x6D98B37EF10BA666, 0x70B34CEDBC6D59B2, 0xDDAA72D72463F040⟩) 1 1 4 0 3 :=
  ⟨_, _, _, _, _, by decide, by decide, by decide, yields_first (by decide +kernel) (by decide +kernel),
    yields_first (by decide +kernel) (by decide +kernel),
    ⟨by decide, .inr ⟨by decide, yields_first (by decide +kernel) (by decide +kernel)⟩⟩,
    yields_first (by decide +kernel) (by decide +kernel),
    .inr ⟨rfl, by decide, .inr ⟨by decide, yields_first (by decide +kernel) (by decide +kernel)⟩⟩⟩

/-- Thirty-two doors, the car not picked first, Stay. -/
theorem witness_TrialPlaysOneGame_stay : trialInput (block .sfcCounter 32 (configured .sfcCounter)) 6 27 16 1 27 :=
  ⟨_, _, _, _, _, by decide, by decide, by decide, yields_first (by decide +kernel) (by decide +kernel),
    yields_first (by decide +kernel) (by decide +kernel),
    ⟨by decide, .inr ⟨by decide, yields_first (by decide +kernel) (by decide +kernel)⟩⟩,
    yields_first (by decide +kernel) (by decide +kernel), .inl ⟨rfl, rfl, rfl⟩⟩

/-- A switch and a stay, at three and at thirty-two doors. -/
theorem witness_TrialsAreLegal :
    let s := block .mcg128 3 (configured .mcg128)
    let u := block .sfcCounter 32 (configured .sfcCounter)
    Ready s ∧ legal s = true ∧ (∃ t, exec .trial s = .next t ∧ (resField t 1 1 == 0 && resField t 0 1 == 0) = true)
    ∧ Ready u ∧ legal u = true ∧ (∃ t, exec .trial u = .next t ∧ (resField t 1 1 == 1 && resField t 0 1 == 1) = true) :=
  ⟨by decide, by decide, nextHas_exists (p := fun t => resField t 1 1 == 0 && resField t 0 1 == 0) (by decide +kernel),
    by decide, by decide, nextHas_exists (p := fun t => resField t 1 1 == 1 && resField t 0 1 == 1) (by decide +kernel)⟩

/-- The trial that completes and the one that never ends. -/
theorem witness_TrialHasNoFailureState : Ready pcg5 ∧ legal pcg5 = true ∧ Ready zero3 ∧ legal zero3 = true := by decide

/-- A switch that wins (section 2.8, MCG128, first trial); a `TRIAL` that answers with a stay falls under no clause. -/
theorem witness_ThreeDoorSwitchWinsIffFirstPickMissed :
    let s := block .mcg128 3 (configured .mcg128)
    Ready s ∧ s.ndoors = 3 ∧ ∃ t, exec .trial s = .next t ∧ (resField t 1 1 == 0) = true :=
  ⟨by decide, rfl, nextHas_exists (p := fun t => resField t 1 1 == 0) (by decide +kernel)⟩

theorem witness_ConfigSelectsAndSeeds :
    State.reset.err = false ∧ State.reset.cfg = false ∧ sfc3.err = false ∧ sfc3.cfg = true
    ∧ (2 : U32).toNat < 3 ∧ 32 < (33 : U32).toNat ∧ 3 ≤ (3 : U32).toNat ∧ (32 : U32).toNat ≤ 32
    ∧ 2 < (3 : BitVec 8).toNat ∧ (0 : BitVec 8).toNat = Engine.mcg128.code.toNat
    ∧ (1 : BitVec 8).toNat = Engine.sfcCounter.code.toNat ∧ (2 : BitVec 8).toNat = Engine.sfcPcgCounter.code.toNat
    ∧ (pending sfc3).err = true
    ∧ illegalInput 0x01 (fun w => ∃ n e, e < 256 ∧ w = BitVec.ofNat 64 (0x01 + e * 2 ^ 16 + n * 2 ^ 32)) := by
  refine ⟨rfl, rfl, rfl, rfl, by decide, by decide, by decide, by decide, by decide, by decide, by decide, by decide, rfl,
    illegal_input 0x0101 (by decide) ?_⟩
  rintro ⟨n, e, -, h⟩
  have h' : (0x0101 : Word).toNat % 2 ^ 16 = 1 := by
    rw [h, BitVec.toNat_ofNat]
    omega
  exact absurd h' (by decide)

/-- A step of a configured block that completes with a reset second in the queue, and a failed `CONFIG`. -/
theorem witness_ConfigurationIsFixedUntilReset :
    let s := queued sfc3 [.wr 0 0x20, .reset]
    (∃ t, step s = .next t ∧ t.cfg = true) ∧ s.cfg = true ∧ s.hostOps.head? ≠ some .reset
    ∧ (∀ (w : Word) (rest : List HostOp), s.hostOps = .wr 0 w :: .reset :: rest →
        runCommand w (popped s (.reset :: rest)) ≠ .fault .neverCompletes)
    ∧ Ready s ∧ State.reset.err = false ∧ State.reset.cfg = false
    ∧ ∃ t, exec (.config 33 0) State.reset = .next t ∧ t.err = true := by
  refine ⟨nextHas_exists (by decide +kernel), rfl, by decide, ?_, by decide, rfl, rfl, nextHas_exists (by decide +kernel)⟩
  intro w rest h hf
  cases h
  have hs : stopsAt (runCommand 0x20 (popped (queued sfc3 [.wr 0 0x20, .reset]) [.reset])) .neverCompletes = true := by
    rw [hf]; rfl
  exact absurd hs (by decide +kernel)

theorem witness_OnlyResultCommandsWriteRes :
    (∃ t, exec .seed (arg 1 sfc3) = .next t ∧ (!t.err) = true) ∧ writesRes .seed = false
    ∧ (∃ t, exec (.bounded 0) sfc3 = .next t ∧ t.err = true)
    ∧ (∃ t, exec .next (pending sfc3) = .next t ∧ t.err = true) ∧ (pending sfc3).err = true
    ∧ (∃ t, exec .next sfc3 = .next t ∧ (!t.err) = true) ∧ writesRes .next = true ∧ sfc3.err = false :=
  ⟨nextHas_exists (by decide +kernel), rfl, nextHas_exists (by decide +kernel), nextHas_exists (by decide +kernel), rfl,
    nextHas_exists (by decide +kernel), rfl, rfl⟩

theorem witness_NoCommandWritesItsOperands :
    (∃ t, exec (.pick 3) (arg 0x16 sfc3) = .next t ∧ (t.arg0.val == 0x16) = true) :=
  nextHas_exists (p := fun t => t.arg0.val == 0x16) (by decide +kernel)

theorem witness_EngineStateIsOpaque :
    (∃ t, step (queued sfc3 [.rd 3]) = .next t ∧ t.cfg = true)
    ∧ (∃ t, step (queued sfc3 [.wr 0x7F 1]) = .next t ∧ t.cfg = true) ∧ (0x7F : RegIndex) ≠ 0
    ∧ (∃ t, exec .next sfc3 = .next t ∧ (t.bank != sfc3.bank) = true) :=
  ⟨nextHas_exists (by decide +kernel), nextHas_exists (by decide +kernel), by decide,
    nextHas_exists (p := fun t => t.bank != sfc3.bank) (by decide +kernel)⟩

/-- A command that draws, one that is refused, one that needs no engine in a block without one, and a `TRIAL`. -/
theorem witness_CommandsAdvanceTheStream :
    (∃ t, exec .next sfc3 = .next t ∧ (!t.err) = true) ∧ (∃ t, exec (.bounded 0) sfc3 = .next t ∧ t.err = true)
    ∧ (∃ t, exec (.rotl 0) State.reset = .next t ∧ (!t.err) = true) ∧ (∃ t, exec .trial sfc3 = .next t ∧ (!t.err) = true)
    ∧ (∀ n id, Instr.trial ≠ .config n id) ∧ Instr.trial ≠ .seed
    ∧ (sfc3.cfg = true → 3 ≤ sfc3.ndoors.toNat ∧ sfc3.ndoors.toNat ≤ 32)
    ∧ (State.reset.cfg = true → 3 ≤ State.reset.ndoors.toNat ∧ State.reset.ndoors.toNat ≤ 32) :=
  ⟨nextHas_exists (by decide +kernel), nextHas_exists (by decide +kernel), nextHas_exists (by decide +kernel),
    nextHas_exists (by decide +kernel), fun _ _ h => (by cases h), fun h => (by cases h), by decide, by decide⟩

/-- Every clause's index, at both ends of the table. -/
theorem witness_RegisterMapReadsAndWrites :
    (queued sfc3 [.rd 0x40]).hostOps = .rd 0x40 :: [] ∧ (queued sfc3 [.wr 0 0x20]).hostOps = .wr 0 0x20 :: []
    ∧ (0 : RegIndex).toNat = 0 ∧ (1 : RegIndex).toNat = 1 ∧ (2 : RegIndex).toNat = 2 ∧ (3 : RegIndex).toNat = 3
    ∧ (4 : RegIndex).toNat = 4 ∧ (5 : RegIndex).toNat = 5 ∧ (0x40 : RegIndex).toNat = 0x40 + (0 : Fin 64).val
    ∧ (0x7F : RegIndex).toNat = 0x40 + (63 : Fin 64).val
    ∧ 0x06 ≤ (0x06 : RegIndex).toNat ∧ (0x3F : RegIndex).toNat ≤ 0x3F := by decide

theorem witness_ReadsHaveNoSideEffects :
    (queued sfc3 [.rd 3, .rd 3]).hostOps = .rd 3 :: .rd 3 :: []
    ∧ (∃ t, step (queued sfc3 [.rd 3, .rd 3]) = .next t ∧ t.cfg = true)
    ∧ (2 : RegIndex) ≠ 0 ∧ (queued sfc3 [.wr 2 7, .wr 2 7]).hostOps = .wr 2 7 :: .wr 2 7 :: []
    ∧ (∃ t, step (queued sfc3 [.wr 2 7, .wr 2 7]) = .next t ∧ t.cfg = true)
    ∧ (∃ t, step (queued sfc3 [.wr 0x7F 7, .wr 0x7F 7]) = .next t ∧ t.cfg = true) :=
  ⟨rfl, nextHas_exists (by decide +kernel), by decide, rfl, nextHas_exists (by decide +kernel),
    nextHas_exists (by decide +kernel)⟩

theorem witness_StatusShowsTheFields : (queued sfc3 [.rd 0x01]).hostOps = .rd 0x01 :: []
    ∧ (queued (pending sfc3) [.wr 0x01 7]).hostOps = .wr 0x01 7 :: [] := by decide

theorem witness_StateAfterReset : needsEngine .trial = true ∧ 3 ≤ (3 : U32).toNat ∧ (32 : U32).toNat ≤ 32
    ∧ (2 : BitVec 8).toNat ≤ 2 := by decide

theorem witness_ResetKeepsNothing : (queued (pending sfc3) [.reset, .rd 1]).hostOps = .reset :: [.rd 1] := by decide

theorem witness_IdleBlockIsStill : sfc3.hostOps = [] := by decide

/-- A legal state with no error, one with an error pending, and a step of each. -/
theorem witness_StepKeepsTheStateLegal :
    legal (queued sfc3 [.wr 0 0x0000000000000030]) = true
    ∧ (∃ t, step (queued sfc3 [.wr 0 0x0000000000000030]) = .next t ∧ t.err = true)
    ∧ legal (queued (pending sfc3) [.wr 0 3]) = true
    ∧ (∃ t, step (queued (pending sfc3) [.wr 0 3]) = .next t ∧ (!t.err) = true) :=
  ⟨by decide +kernel, nextHas_exists (by decide +kernel), by decide +kernel, nextHas_exists (by decide +kernel)⟩

/-- Host reads of an unwritten element, at both ends of the table, and of a written one. -/
theorem witness_CheckedStepFaultsOnUnwrittenReads :
    ReadsNone (.rd 0x02) State.reset ∧ ReadsNone (.rd 0x03) State.reset ∧ ReadsNone (.rd 0x40) State.reset
    ∧ ReadsNone (.rd 0x7F) State.reset ∧ ¬ ReadsNone (.rd 0x03) (sfc3.setRes 5)
    ∧ ((fullTable (arg 1 sfc3)).setRes 5).arg0.written = true ∧ ((fullTable (arg 1 sfc3)).setRes 5).res.written = true
    ∧ (∀ j : Fin 64, (((fullTable (arg 1 sfc3)).setRes 5).cdf.get j).written = true) ∧ sfc3.hostOps = [] :=
  ⟨.inl ⟨rfl, rfl⟩, .inr (.inl ⟨rfl, rfl⟩), .inr (.inr ⟨0, rfl, by decide +kernel⟩),
    .inr (.inr ⟨63, rfl, by decide +kernel⟩), by unfold ReadsNone; decide +kernel, rfl, rfl, by decide +kernel, rfl⟩

/-- Each command that reads an unwritten element, at the ends of its operand range. -/
theorem witness_unwritten_operands :
    ReadsNone (.wr 0 0x10) State.reset ∧ ReadsNone (.wr 0 0x11) State.reset ∧ ReadsNone (.wr 0 0x02) sfc3
    ∧ ReadsNone (.wr 0 0x0000000100000032) sfc3 ∧ ReadsNone (.wr 0 0x0000002000000032) sfc3
    ∧ ReadsNone (.wr 0 0x0000000200000132) (fullTable sfc3) ∧ ReadsNone (.wr 0 0x0000002000000132) (arg 1 sfc3)
    ∧ ReadsNone (.wr 0 0x0000000200000131) sfc3 ∧ ReadsNone (.wr 0 0x0000004100000131) (tableA sfc3) :=
  ⟨⟨rfl, rfl, .rotl 0, rfl, rfl⟩, ⟨rfl, rfl, .rotr 0, rfl, rfl⟩, ⟨rfl, rfl, .seed, rfl, rfl, rfl⟩,
    ⟨rfl, rfl, .pick 1, rfl, rfl, by decide, by decide, rfl⟩, ⟨rfl, rfl, .pick 32, rfl, rfl, by decide, by decide, rfl⟩,
    ⟨rfl, rfl, .pickC 2, rfl, rfl, by decide, by decide, .inl rfl⟩,
    ⟨rfl, rfl, .pickC 32, rfl, rfl, by decide, by decide, .inr ⟨30, by decide, by decide +kernel⟩⟩,
    ⟨rfl, rfl, .sampleC 2, rfl, rfl, by decide, by decide, 0, by decide, by decide +kernel⟩,
    ⟨rfl, rfl, .sampleC 65, rfl, rfl, by decide, by decide, 63, by decide, by decide +kernel⟩⟩

/-- Commands that read nothing unwritten: a discarded one, one before `CONFIG`, and one that reads the entries it needs. -/
theorem witness_no_unwritten_operand :
    ¬ ReadsNone (.wr 0 0x10) (pending State.reset) ∧ ¬ ReadsNone (.wr 0 0x02) State.reset
    ∧ ¬ ReadsNone (.wr 0 0x0000000200000131) (sfc3.setCdf 0 0x3FE0000000000000) := by
  refine ⟨fun h => absurd h.2.1 (by decide), ?_, ?_⟩
  · rintro ⟨-, -, i, hi, h⟩
    cases (show Except.ok Instr.seed = Except.ok i from hi)
    exact absurd h.1 (by decide)
  · rintro ⟨-, -, i, hi, h⟩
    cases (show Except.ok (Instr.sampleC 2) = Except.ok i from hi)
    obtain ⟨-, -, -, j, hj, hw⟩ := h
    have h0 : j = 0 := Fin.ext (Nat.lt_one_iff.1 hj)
    subst h0
    exact absurd hw (by decide +kernel)

end Sys2Proof.Tests
end

section
/-! What a decoded command and a host access can do, said once, and the statements of `10_state.md` that follow. -/

namespace Sys2Proof.Machine

open Sys2Proof.Safety Sys2Proof.Claims

@[simp] theorem params_maskW : params.maskW = 32 := rfl

/-! ### The commands that need an engine -/

theorem exec_seed (s : State) :
    exec .seed s = drawing true .seed s (.next (s.setBank (seedBank params s.eng (arg0Word s) s.bank))) := rfl

/-- Every command that needs an engine, but `SEED`, is the prologue of R88 before a drawing computation; the operand check
of that prologue is the one R251 states. -/
theorem exec_eq_drawing {i : Instr} (s : State) (hn : needsEngine i = true) (hi : i ≠ .seed) :
    ∃ x, exec i s = drawing (operandInRange i) i s (finish s x) := by
  cases i with
  | config | errclr | rotl | rotr => simp [needsEngine] at hn
  | seed => exact absurd rfl hi
  | next | rand32 | rand52 | frand | sampleC | pickC | trial => exact ⟨_, rfl⟩
  | bounded n | sample n =>
    have hr : (n != 0) = (n.toNat != 0) := by simp [bne, ← BitVec.toNat_inj]
    exact ⟨_, congrArg (drawing · _ s _) hr⟩
  | pick p =>
    have hr : populationOk params p = (p.toNat != 0 && p.toNat ≤ 32) := by
      rw [populationOk, params_maskW, Bool.eq_iff_iff]
      simp [Nat.one_le_iff_ne_zero]
    exact ⟨_, congrArg (drawing · _ s _) hr⟩

theorem exec_notReady {i : Instr} {s : State} (hn : needsEngine i = true) (he : s.err = false) (hc : s.cfg = false) :
    exec i s = .next (raise .notReady (encode i) s) := by
  by_cases hi : i = .seed
  · rw [hi, exec_seed, drawing_unready he hc]
  · obtain ⟨x, hx⟩ := exec_eq_drawing s hn hi
    rw [hx, drawing_unready he hc]

/-! ### `CONFIG` -/

theorem engineOfId_of_le_two {id : BitVec 8} (h : id.toNat ≤ 2) : ∃ e, engineOfId id = some e := by
  unfold engineOfId
  interval_cases id.toNat <;> exact ⟨_, rfl⟩

theorem exec_config_accepted {n : U32} {id : BitVec 8} {e : Engine} {s : State} (he : s.err = false) (hc : s.cfg = false)
    (hn : doorsOk params n = true) (hid : engineOfId id = some e) :
    exec (.config n id) s = .next (configure params n e s) := by
  simp [exec, execConfig, unlessPending, he, hc, hn, hid]

/-! ### Everything a command can do -/

/-- When a decoded command that is not discarded raises an error (R250, R251), in the order of R252. -/
inductive Raises (s : State) : Instr → Error → Prop where
  | locked {n : U32} {id : BitVec 8} (hc : s.cfg = true) : Raises s (.config n id) .locked
  | configDoors {n : U32} {id : BitVec 8} (hc : s.cfg = false) (hn : doorsOk params n = false) :
      Raises s (.config n id) .configDoors
  | configRng {n : U32} {id : BitVec 8} (hc : s.cfg = false) (hn : doorsOk params n = true) (hid : engineOfId id = none) :
      Raises s (.config n id) .configRng
  | notReady {i : Instr} (hi : needsEngine i = true) (hc : s.cfg = false) : Raises s i .notReady
  | range {i : Instr} (hi : needsEngine i = true) (hc : s.cfg = true) (hr : operandInRange i = false) : Raises s i .range

/-- The next states of a command (R88): discarded, refused with an error, or performed. -/
inductive Effect (s : State) : Instr → State → Prop where
  | discarded {i : Instr} (hi : i ≠ .errclr) (he : s.err = true) : Effect s i s
  | raised {i : Instr} {e : Error} (he : s.err = false) (hr : Raises s i e) : Effect s i (raise e (encode i) s)
  | cleared : Effect s .errclr (clearError s)
  | configured {n : U32} {id : BitVec 8} {e : Engine} (he : s.err = false) (hc : s.cfg = false)
      (hn : doorsOk params n = true) (hid : engineOfId id = some e) : Effect s (.config n id) (configure params n e s)
  | seeded (he : s.err = false) (hc : s.cfg = true) :
      Effect s .seed (s.setBank (seedBank params s.eng (arg0Word s) s.bank))
  | rotated {i : Instr} (v : Word) (hi : needsEngine i = false) (hw : writesRes i = true) (he : s.err = false) :
      Effect s i (s.setRes v)
  | drew {i : Instr} (v : Word) (b : Bank) (hi : needsEngine i = true) (hw : writesRes i = true) (he : s.err = false)
      (hc : s.cfg = true) (hr : operandInRange i = true) : Effect s i ((s.setBank b).setRes v)

theorem execConfig_effect {n : U32} {id : BitVec 8} {s t : State} (h : execConfig n id s = .next t) :
    Effect s (.config n id) t := by
  rcases unlessPending_cases h with ⟨he, rfl⟩ | ⟨he, h⟩
  · exact .discarded (by simp) he
  split at h
  case isTrue hc =>
    cases h
    exact .raised he (.locked hc)
  case isFalse hc =>
    rw [Bool.not_eq_true] at hc
    split at h
    case isTrue hn =>
      cases h
      exact .raised he (.configDoors hc hn)
    case isFalse hn =>
      rw [Bool.not_eq_false] at hn
      cases hid : engineOfId id with
      | none =>
        rw [hid] at h
        cases h
        exact .raised he (.configRng hc hn hid)
      | some e =>
        rw [hid] at h
        cases h
        exact .configured he hc hn hid

theorem execSeed_effect {s t : State} (h : exec .seed s = .next t) : Effect s .seed t := by
  rw [exec_seed] at h
  rcases drawing_cases h with ⟨he, rfl⟩ | ⟨he, hc, rfl⟩ | ⟨-, -, hr, -⟩ | ⟨he, hc, -, h⟩
  · exact .discarded (by simp) he
  · exact .raised he (.notReady rfl hc)
  · cases hr
  · cases h
    exact .seeded he hc

theorem rotate_effect {i : Instr} {s t : State} {v : Word} (hi : needsEngine i = false) (hw : writesRes i = true)
    (h : unlessPending s (.next (s.setRes v)) = .next t) : Effect s i t := by
  rcases unlessPending_cases h with ⟨he, rfl⟩ | ⟨he, h⟩
  · exact .discarded (by rintro rfl; simp [writesRes] at hw) he
  · cases h
    exact .rotated v hi hw he

theorem draw_effect {i : Instr} {s t : State} (hi : needsEngine i = true) (hw : writesRes i = true)
    (h : exec i s = .next t) : Effect s i t := by
  obtain ⟨x, hx⟩ := exec_eq_drawing s hi (by rintro rfl; simp [writesRes] at hw)
  rw [hx] at h
  rcases drawing_cases h with ⟨he, rfl⟩ | ⟨he, hc, rfl⟩ | ⟨he, hc, hr, rfl⟩ | ⟨he, hc, hr, h⟩
  · exact .discarded (by rintro rfl; simp [writesRes] at hw) he
  · exact .raised he (.notReady hi hc)
  · exact .raised he (.range hi hc hr)
  · obtain ⟨v, b, -, rfl⟩ := finish_cases h
    exact .drew v b hi hw he hc hr

/-- Everything a command can do when it answers a next state. -/
theorem exec_effect {i : Instr} {s t : State} (h : exec i s = .next t) : Effect s i t := by
  cases i with
  | config n id => exact execConfig_effect h
  | seed => exact execSeed_effect h
  | errclr =>
    cases h
    exact .cleared
  | rotl sub | rotr sub => exact rotate_effect rfl rfl h
  | next | rand32 | rand52 | frand | bounded | sample | sampleC | pick | pickC | trial => exact draw_effect rfl rfl h

/-! ### Host accesses -/

theorem step_of_hostOps {s : State} {op : HostOp} {rest : List HostOp} (h : s.hostOps = op :: rest) :
    step s = perform op (s.withOps rest) := by
  simp [step, performNext, h]

theorem readReg_setBank (c : Config) (idx : RegIndex) (s : State) (b : Bank) :
    readReg c idx (s.setBank b) = readReg c idx s := rfl

theorem hostReads_bank {idx : RegIndex} {s t : State} (h : hostReads idx s = .next t) : t.bank = s.bank := by
  obtain ⟨v, -, rfl⟩ := hostReads_cases h
  simp

theorem writeReg_bank {c : Config} {idx : RegIndex} {v : Word} {s t : State} (h : writeReg c idx v s = some t) :
    t.bank = s.bank := by
  rcases writeReg_cases h with rfl | rfl | rfl <;> simp

theorem hostWrites_bank {idx : RegIndex} {v : Word} {s t : State} (hidx : idx ≠ 0) (h : hostWrites idx v s = .next t) :
    t.bank = s.bank := by
  rw [hostWrites, if_neg hidx] at h
  split at h
  · cases h
    exact writeReg_bank ‹_›
  · cases h

/-! ### `STATUS` -/

/-- The concatenation of two fields, as a number. -/
theorem toNat_append_eq_add {m n : Nat} (x : BitVec m) (y : BitVec n) : (x ++ y).toNat = x.toNat * 2 ^ n + y.toNat := by
  rw [BitVec.toNat_append, ← Nat.shiftLeft_add_eq_or_of_lt y.isLt, Nat.shiftLeft_eq]

theorem statusWord_toNat (s : State) :
    (statusWord s).toNat = s.errcode.toNat * 2 ^ 8 + (engField s).toNat * 2 ^ 4 + s.err.toNat * 2 + s.cfg.toNat := by
  simp only [statusWord, toNat_append_eq_add, BitVec.toNat_ofBool, BitVec.toNat_ofNat]
  omega

/-- An unconfigured block with no error shows a `STATUS` of 0, whatever `ENG` holds (R37). -/
theorem statusWord_eq_zero {s : State} (hc : s.cfg = false) (he : s.err = false) (hcode : s.errcode = 0) :
    statusWord s = 0 := by
  simp [statusWord, engField, hc, he, hcode]

end Sys2Proof.Machine

namespace Sys2Proof

open Sys2Proof.Machine Sys2Proof.Safety Sys2Proof.Claims

/-- Settles O46, by the effects a command can have. -/
theorem onlyResultCommandsWriteRes : Obligations.OnlyResultCommandsWriteRes := by
  unfold Obligations.OnlyResultCommandsWriteRes
  intro i s t h
  cases exec_effect h with
  | discarded hi he => simp [he]
  | raised he hr => simp
  | cleared => simp [writesRes]
  | configured he hc hn hid => simp [writesRes, configure]
  | seeded he hc => simp [writesRes]
  | rotated v hi hw he => simp [hw, he, Reg.holding]
  | drew v b hi hw he hc hr => simp [hw, he, Reg.holding]

/-- Settles O48: no register shows `S`, no host access but a command moves it, and a command that moves it has the effect of
`CONFIG`, of `SEED` or of a draw. -/
theorem engineStateIsOpaque : Obligations.EngineStateIsOpaque := by
  unfold Obligations.EngineStateIsOpaque
  refine ⟨fun s b idx => readReg_setBank params idx s b, ?_, ?_, ?_⟩
  · intro s t idx rest hops h
    rw [step_of_hostOps hops] at h
    simpa using hostReads_bank h
  · intro s t idx v rest hops hidx h
    rw [step_of_hostOps hops] at h
    simpa using hostWrites_bank hidx h
  · intro i s t h hb
    cases exec_effect h with
    | discarded hi he => exact absurd rfl hb
    | raised he hr => exact absurd rfl hb
    | cleared => exact absurd rfl hb
    | configured he hc hn hid => exact .inr ⟨_, _, rfl⟩
    | seeded he hc => exact .inl rfl
    | rotated v hi hw he => exact absurd rfl hb
    | drew v b hi hw he hc hr => exact .inl hi

/-- Settles O52, from the fields of `STATUS` as one number and the register map at index `0x01`. -/
theorem statusShowsTheFields : Obligations.StatusShowsTheFields := by
  unfold Obligations.StatusShowsTheFields
  refine ⟨fun s => ?_, fun s rest h => ?_, fun s v rest h => ?_⟩
  · rw [statusWord_toNat, engField]
    cases s.cfg <;> cases s.err <;> simp <;> omega
  · rw [step_of_hostOps h]
    rfl
  · rw [step_of_hostOps h]
    rfl

/-- Settles O53: the fields by the definition of the reset state, the failing commands by `exec_notReady`, the first
successful one by `exec_config_accepted`. -/
theorem stateAfterReset : Obligations.StateAfterReset := by
  unfold Obligations.StateAfterReset
  refine ⟨rfl, rfl, rfl, rfl, rfl, rfl, fun j => ?_, fun e doors b => ?_⟩
  · simp [State.reset, Reg.unwritten]
  · intro s
    have hstatus : statusWord s = 0 := statusWord_eq_zero rfl rfl rfl
    refine ⟨hstatus, congrArg some hstatus, rfl, rfl, fun i hi => exec_notReady hi rfl rfl, fun n id hlo hhi hid => ?_⟩
    obtain ⟨e', he'⟩ := engineOfId_of_le_two hid
    have hn : doorsOk params n = true := by simp [doorsOk, hlo, hhi]
    exact ⟨configure params n e' s, exec_config_accepted rfl rfl hn he', rfl, rfl⟩

end Sys2Proof
end

section
/-! Reads and writes of registers, repeated (R56), and the statement of `20_memory.md` that follows. -/

namespace Sys2Proof.Machine

/-! ### Reads -/

theorem readReg_withOps (c : Config) (idx : RegIndex) (s : State) (rest : List HostOp) :
    readReg c idx (s.withOps rest) = readReg c idx s := rfl

/-- A read answers exactly when its index names a register. -/
theorem step_of_rd {idx : RegIndex} {s t : State} {rest : List HostOp} (hops : s.hostOps = .rd idx :: rest) :
    step s = .next t ↔ ∃ v, readReg params idx s = some v ∧ t = (s.withOps rest).answer v := by
  rw [step_of_hostOps hops]
  constructor
  · exact fun h => hostReads_cases h
  · rintro ⟨v, hv, rfl⟩
    simp [perform, hostReads, readReg_withOps, hv]

/-! ### Writes of the registers other than `CMD` -/

/-- A write to a register other than `CMD` answers exactly when its index names a register. -/
theorem step_of_wr {idx : RegIndex} {v : Word} {s t : State} {rest : List HostOp} (hidx : idx ≠ 0)
    (hops : s.hostOps = .wr idx v :: rest) : step s = .next t ↔ writeReg params idx v (s.withOps rest) = some t := by
  rw [step_of_hostOps hops, perform, hostWrites, if_neg hidx]
  cases writeReg params idx v (s.withOps rest) <;> simp

/-- The element a write goes to is decided by the index alone, whatever the state. -/
theorem writeReg_target {c : Config} {idx : RegIndex} {v : Word} {s t : State} (h : writeReg c idx v s = some t) :
    (∀ u, writeReg c idx v u = some u) ∨ (∀ u, writeReg c idx v u = some (u.setArg0 v))
      ∨ (∀ u, writeReg c idx v u = some (u.setCdf (cdfIndex idx) v)) := by
  unfold writeReg at h ⊢
  split at h
  case h_2 => exact .inr (.inl fun u => rfl)
  case h_6 =>
    split at h
    · exact .inr (.inr fun u => if_pos ‹_›)
    · cases h
  all_goals exact .inl fun u => rfl

theorem setArg0_setArg0 (s : State) (v : Word) : (s.setArg0 v).setArg0 v = s.setArg0 v := rfl

theorem setCdf_setCdf (s : State) (i : Fin 64) (v : Word) : (s.setCdf i v).setCdf i v = s.setCdf i v := by
  simp [State.setCdf]

theorem setArg0_withOps (s : State) (v : Word) (rest : List HostOp) :
    (s.withOps rest).setArg0 v = (s.setArg0 v).withOps rest := rfl

theorem setCdf_withOps (s : State) (i : Fin 64) (v : Word) (rest : List HostOp) :
    (s.withOps rest).setCdf i v = (s.setCdf i v).withOps rest := rfl

/-- A write repeated changes nothing, whatever operations are still to be performed. -/
theorem writeReg_again {c : Config} {idx : RegIndex} {v : Word} {s t : State} (h : writeReg c idx v s = some t)
    (rest : List HostOp) : writeReg c idx v (t.withOps rest) = some (t.withOps rest) := by
  rcases writeReg_target h with hw | hw | hw
  · exact hw _
  · obtain rfl : s.setArg0 v = t := Option.some.inj ((hw s).symm.trans h)
    rw [hw, setArg0_withOps, setArg0_setArg0]
  · obtain rfl : s.setCdf (cdfIndex idx) v = t := Option.some.inj ((hw s).symm.trans h)
    rw [hw, setCdf_withOps, setCdf_setCdf]

theorem writeReg_hostOps {c : Config} {idx : RegIndex} {v : Word} {s t : State} (h : writeReg c idx v s = some t) :
    t.hostOps = s.hostOps := by
  rcases writeReg_cases h with rfl | rfl | rfl <;> simp

theorem writeReg_hostRead {c : Config} {idx : RegIndex} {v : Word} {s t : State} (h : writeReg c idx v s = some t) :
    t.hostRead = s.hostRead := by
  rcases writeReg_cases h with rfl | rfl | rfl <;> simp

theorem withOps_of_hostRead_none {s : State} (h : s.hostRead = none) (rest : List HostOp) :
    s.withOps rest = { s with hostOps := rest } := by
  rw [State.withOps, h]

/-! ### The command `NEXT`, written to `CMD` -/

theorem abandonedByReset_next (s t : State) : abandonedByReset s (.next t) = .next t := rfl

/-- The state a performed `NEXT` leaves (R132). -/
def afterNext (s : State) : State :=
  (s.setBank (nextWord params s.eng s.bank).2).setRes (nextWord params s.eng s.bank).1

theorem step_of_next {s : State} {rest : List HostOp} (hops : s.hostOps = .wr 0 0x20 :: rest) (he : s.err = false)
    (hc : s.cfg = true) : step s = .next (afterNext (s.withOps rest)) := by
  have hrun : runCommand 0x20 (s.withOps rest) = .next (afterNext (s.withOps rest)) := drawing_ready he hc rfl
  rw [step_of_hostOps hops, perform, hostWrites, if_pos rfl, hrun, abandonedByReset_next]

/-- A configured block under SFC-Counter, its bank zero (the outputs are 0 and 1), with the word of `NEXT` written to
`CMD` twice. -/
def nextTwice : State :=
  { State.reset with
    eng := .sfcCounter, cfg := true, ndoors := 3, bank := ⟨0, 0, 0, 0⟩, hostOps := [.wr 0 0x20, .wr 0 0x20] }

end Sys2Proof.Machine

namespace Sys2Proof

open Sys2Proof.Machine

/-- Settles O51: a read answers by `readReg`, which does not look at the host's side; a write repeated finds its element
already holding the value; two `NEXT` in a row return two results of the stream. -/
theorem readsHaveNoSideEffects : Obligations.ReadsHaveNoSideEffects := by
  unfold Obligations.ReadsHaveNoSideEffects
  refine ⟨fun s t idx rest hops h => ?_, fun s t idx v rest hidx hops h => ?_, ?_⟩
  · obtain ⟨v, hv, rfl⟩ := (step_of_rd hops).1 h
    exact ⟨v, rfl, fun ops r => (step_of_rd rfl).2 ⟨v, hv, rfl⟩⟩
  · have hw := (step_of_wr hidx hops).1 h
    rw [← withOps_of_hostRead_none (writeReg_hostRead hw), step_of_wr hidx (writeReg_hostOps hw)]
    exact writeReg_again hw rest
  · exact ⟨nextTwice, _, _, 0x20, rfl, step_of_next rfl rfl rfl, step_of_next rfl rfl rfl, by decide +kernel⟩

end Sys2Proof
end

section
/-! The rows of the opcode map (R83) by the fields of the word, the illegal words (R84), and the statements of
`30_encoding.md` that follow. -/

namespace Sys2Proof

open Sys2Proof.Claims

/-! ### A word by its fields (R80) -/

/-- The six fields cover the word. -/
theorem word_eq_iff_fields {w v : Word} : w = v ↔ opField w = opField v ∧ cField w = cField v ∧ rsv1Field w = rsv1Field v
    ∧ subField w = subField v ∧ rsv2Field w = rsv2Field v ∧ immField w = immField v := by
  constructor
  · rintro rfl
    exact ⟨rfl, rfl, rfl, rfl, rfl, rfl⟩
  · simp only [opField, cField, rsv1Field, subField, rsv2Field, immField, ← BitVec.toNat_inj, BitVec.extractLsb'_toNat,
      Nat.shiftRight_eq_div_pow]
    omega

/-- The number a command word is. -/
theorem commandWord_toNat (op : BitVec 8) (c : BitVec 1) (sub : BitVec 8) (imm : U32) :
    (commandWord op c sub imm).toNat = op.toNat + c.toNat * 2 ^ 8 + sub.toNat * 2 ^ 16 + imm.toNat * 2 ^ 32 := by
  have hop := congrArg BitVec.toNat (opField_commandWord op c sub imm)
  have hc := congrArg BitVec.toNat (cField_commandWord op c sub imm)
  have hrsv1 := congrArg BitVec.toNat (rsv1Field_commandWord op c sub imm)
  have hsub := congrArg BitVec.toNat (subField_commandWord op c sub imm)
  have hrsv2 := congrArg BitVec.toNat (rsv2Field_commandWord op c sub imm)
  have himm := congrArg BitVec.toNat (immField_commandWord op c sub imm)
  simp only [opField, cField, rsv1Field, subField, rsv2Field, immField, BitVec.extractLsb'_toNat,
    Nat.shiftRight_eq_div_pow, BitVec.ofNat_eq_ofNat, BitVec.toNat_ofNat] at hop hc hrsv1 hsub hrsv2 himm
  omega

/-! ### The masks of the five formats (R81, R83) -/

/-- `cw[15:9]` and `cw[31:24]` are zero. -/
abbrev ReservedZero (w : Word) : Prop := rsv1Field w = 0 ∧ rsv2Field w = 0

/-- A mask that takes `op`, `c` and the reserved fields whole, as every mask of R83 does, acts on `sub` and `imm32` by
themselves. -/
theorem and_eq_commandWord_iff {w m : Word} {op sub : BitVec 8} {c : BitVec 1} {imm : U32}
    (hop : opField m = BitVec.allOnes 8) (hc : cField m = BitVec.allOnes 1) (hrsv1 : rsv1Field m = BitVec.allOnes 7)
    (hrsv2 : rsv2Field m = BitVec.allOnes 8) :
    w &&& m = commandWord op c sub imm ↔ ReservedZero w ∧ opField w = op ∧ cField w = c
      ∧ subField w &&& subField m = sub ∧ immField w &&& immField m = imm := by
  have hand : opField (w &&& m) = opField w &&& opField m ∧ cField (w &&& m) = cField w &&& cField m
      ∧ rsv1Field (w &&& m) = rsv1Field w &&& rsv1Field m ∧ subField (w &&& m) = subField w &&& subField m
      ∧ rsv2Field (w &&& m) = rsv2Field w &&& rsv2Field m ∧ immField (w &&& m) = immField w &&& immField m := by
    simp only [opField, cField, rsv1Field, subField, rsv2Field, immField, BitVec.extractLsb'_and, and_self]
  simp only [word_eq_iff_fields, hand, hop, hc, hrsv1, hrsv2, BitVec.and_allOnes, opField_commandWord, cField_commandWord,
    rsv1Field_commandWord, subField_commandWord, rsv2Field_commandWord, immField_commandWord]
  tauto

theorem and_maskZ_iff {w : Word} {op : BitVec 8} : w &&& 0xFFFFFFFFFFFFFFFF = commandWord op 0 0 0
    ↔ ReservedZero w ∧ opField w = op ∧ cField w = 0 ∧ subField w = 0 ∧ immField w = 0 := by
  rw [and_eq_commandWord_iff rfl rfl rfl rfl, show subField 0xFFFFFFFFFFFFFFFF = BitVec.allOnes 8 from rfl,
    show immField 0xFFFFFFFFFFFFFFFF = BitVec.allOnes 32 from rfl, BitVec.and_allOnes, BitVec.and_allOnes]

theorem and_topTwo_eq_zero_iff (x : BitVec 8) : x &&& 0xC0 = 0 ↔ x.toNat < 64 := by
  revert x
  decide +kernel

theorem and_maskR_iff {w : Word} {op : BitVec 8} : w &&& 0xFFFFFFFFFFC0FFFF = commandWord op 0 0 0
    ↔ ReservedZero w ∧ opField w = op ∧ cField w = 0 ∧ (subField w).toNat < 64 ∧ immField w = 0 := by
  rw [and_eq_commandWord_iff rfl rfl rfl rfl, show subField 0xFFFFFFFFFFC0FFFF = 0xC0 from rfl,
    show immField 0xFFFFFFFFFFC0FFFF = BitVec.allOnes 32 from rfl, and_topTwo_eq_zero_iff, BitVec.and_allOnes]

/-- Formats I and IC have one mask. -/
theorem and_maskI_iff {w : Word} {op : BitVec 8} {c : BitVec 1} : w &&& 0x00000000FFFFFFFF = commandWord op c 0 0
    ↔ ReservedZero w ∧ opField w = op ∧ cField w = c ∧ subField w = 0 := by
  rw [and_eq_commandWord_iff rfl rfl rfl rfl, show subField 0x00000000FFFFFFFF = BitVec.allOnes 8 from rfl,
    show immField 0x00000000FFFFFFFF = 0#32 from rfl, BitVec.and_allOnes, BitVec.and_zero]
  simp

theorem and_maskG_iff {w : Word} {op : BitVec 8} : w &&& 0x00000000FF00FFFF = commandWord op 0 0 0
    ↔ ReservedZero w ∧ opField w = op ∧ cField w = 0 := by
  rw [and_eq_commandWord_iff rfl rfl rfl rfl, show subField 0x00000000FF00FFFF = 0#8 from rfl,
    show immField 0x00000000FF00FFFF = 0#32 from rfl, BitVec.and_zero, BitVec.and_zero]
  simp

/-! ### The decoder, format by format -/

theorem decode_of_reservedZero {w : Word} (h : ReservedZero w) : decode w = decodeOp w := if_pos h

/-- `sel` (a row is selected) says of the word: its reserved fields are zero, its opcode is `op`, and the other fields
are as the row's format has them (`fits`). The word is then the row's command if the format answers it. -/
theorem decode_of_selects {w : Word} {op : BitVec 8} {sel fits : Prop} {i : Instr}
    (hsel : sel ↔ ReservedZero w ∧ opField w = op ∧ fits) (hdec : opField w = op → fits → decodeOp w = .ok i)
    (h : sel) : decode w = .ok i := by
  obtain ⟨hrsv, hop, hfits⟩ := hsel.1 h
  rw [decode_of_reservedZero hrsv, hdec hop hfits]

theorem opField_eq_ofNat {w : Word} {n : Nat} (h : (opField w).toNat = n) : opField w = BitVec.ofNat 8 n := by
  rw [← h, BitVec.ofNat_toNat, BitVec.setWidth_eq]

/-- A word with a row's opcode that does not select the row breaks the row's format. -/
theorem not_fits_of_not_selects {w : Word} {n : Nat} {sel fits : Prop}
    (hsel : sel ↔ ReservedZero w ∧ opField w = BitVec.ofNat 8 n ∧ fits) (hrsv : ReservedZero w)
    (hop : (opField w).toNat = n) (h : ¬ sel) : ¬ fits :=
  fun hfits => h (hsel.2 ⟨hrsv, opField_eq_ofNat hop, hfits⟩)

/-- `c` has two values, so a word of format IC that selects neither of the two rows has `sub` not zero. -/
theorem subField_ne_zero_of_not_selects {w : Word} {n : Nat} (hrsv : ReservedZero w) (hop : (opField w).toNat = n)
    (huniform : w &&& 0x00000000FFFFFFFF ≠ commandWord (BitVec.ofNat 8 n) 0 0 0)
    (htable : w &&& 0x00000000FFFFFFFF ≠ commandWord (BitVec.ofNat 8 n) 1 0 0) : subField w ≠ 0 := by
  intro hsub
  rcases BitVec.eq_zero_or_eq_one (cField w) with hc | hc
  · exact not_fits_of_not_selects and_maskI_iff hrsv hop huniform ⟨hc, hsub⟩
  · exact not_fits_of_not_selects and_maskI_iff hrsv hop htable ⟨hc, hsub⟩

theorem decode_error_of_decodeOp {w : Word} (h : ReservedZero w → ∃ e, decodeOp w = .error e) :
    ∃ e, decode w = .error e := by
  by_cases hrsv : ReservedZero w
  · exact decode_of_reservedZero hrsv ▸ h hrsv
  · exact ⟨_, if_neg hrsv⟩

/-! ### The rows (R83) -/

/-- A word that selects a row decodes to the row's command. -/
theorem decode_of_row (w : Word) :
    ∀ r ∈ rows, w &&& r.mask = r.pattern → decode w = .ok (r.instr (immField w) (subField w)) := by
  simp only [rows, List.forall_mem_cons, List.not_mem_nil, false_imp_iff, implies_true, and_true]
  refine ⟨decode_of_selects (and_maskG_iff (op := 0x01)) ?_, decode_of_selects (and_maskZ_iff (op := 0x02)) ?_,
    decode_of_selects (and_maskZ_iff (op := 0x03)) ?_, decode_of_selects (and_maskR_iff (op := 0x10)) ?_,
    decode_of_selects (and_maskR_iff (op := 0x11)) ?_, decode_of_selects (and_maskZ_iff (op := 0x20)) ?_,
    decode_of_selects (and_maskZ_iff (op := 0x21)) ?_, decode_of_selects (and_maskZ_iff (op := 0x22)) ?_,
    decode_of_selects (and_maskZ_iff (op := 0x23)) ?_, decode_of_selects (and_maskI_iff (op := 0x30) (c := 0)) ?_,
    decode_of_selects (and_maskI_iff (op := 0x31) (c := 0)) ?_, decode_of_selects (and_maskI_iff (op := 0x31) (c := 1)) ?_,
    decode_of_selects (and_maskI_iff (op := 0x32) (c := 0)) ?_, decode_of_selects (and_maskI_iff (op := 0x32) (c := 1)) ?_,
    decode_of_selects (and_maskZ_iff (op := 0x40)) ?_⟩
  all_goals
    intro hop hfits
    simp [decodeOp, formatG, formatZ, formatR, formatI, formatIC, hop, hfits]

/-- A word that selects no row is illegal. -/
theorem decode_error_of_no_row {w : Word} (h : ∀ r ∈ rows, w &&& r.mask ≠ r.pattern) : ∃ e, decode w = .error e := by
  simp only [rows, List.forall_mem_cons, List.not_mem_nil, false_imp_iff, implies_true, and_true] at h
  obtain ⟨hconfig, hseed, herrclr, hrotl, hrotr, hnext, hrand32, hrand52, hfrand, hbounded, hsample, hsampleC, hpick,
    hpickC, htrial⟩ := h
  refine decode_error_of_decodeOp fun hrsv => ?_
  unfold decodeOp
  split
  case h_1 hop => exact ⟨_, if_neg (not_fits_of_not_selects and_maskG_iff hrsv hop hconfig)⟩
  case h_2 hop => exact ⟨_, if_neg (not_fits_of_not_selects and_maskZ_iff hrsv hop hseed)⟩
  case h_3 hop => exact ⟨_, if_neg (not_fits_of_not_selects and_maskZ_iff hrsv hop herrclr)⟩
  case h_4 hop => exact ⟨_, if_neg (not_fits_of_not_selects and_maskR_iff hrsv hop hrotl)⟩
  case h_5 hop => exact ⟨_, if_neg (not_fits_of_not_selects and_maskR_iff hrsv hop hrotr)⟩
  case h_6 hop => exact ⟨_, if_neg (not_fits_of_not_selects and_maskZ_iff hrsv hop hnext)⟩
  case h_7 hop => exact ⟨_, if_neg (not_fits_of_not_selects and_maskZ_iff hrsv hop hrand32)⟩
  case h_8 hop => exact ⟨_, if_neg (not_fits_of_not_selects and_maskZ_iff hrsv hop hrand52)⟩
  case h_9 hop => exact ⟨_, if_neg (not_fits_of_not_selects and_maskZ_iff hrsv hop hfrand)⟩
  case h_10 hop => exact ⟨_, if_neg (not_fits_of_not_selects (and_maskI_iff (c := 0)) hrsv hop hbounded)⟩
  case h_11 hop => exact ⟨_, if_neg (subField_ne_zero_of_not_selects hrsv hop hsample hsampleC)⟩
  case h_12 hop => exact ⟨_, if_neg (subField_ne_zero_of_not_selects hrsv hop hpick hpickC)⟩
  case h_13 hop => exact ⟨_, if_neg (not_fits_of_not_selects and_maskZ_iff hrsv hop htrial)⟩
  case h_14 => exact ⟨_, rfl⟩

/-- No two rows give the same command. -/
theorem rows_instr_nodup (n : U32) (k : BitVec 8) : (rows.map (·.instr n k)).Nodup := by
  simp [rows]

theorem rows_disjoint (w : Word) : rows.Pairwise fun r q => ¬ (w &&& r.mask = r.pattern ∧ w &&& q.mask = q.pattern) := by
  refine (List.pairwise_map.1 (rows_instr_nodup (immField w) (subField w))).imp_of_mem fun {r q} hr hq hne hboth => hne ?_
  exact Except.ok.inj ((decode_of_row w r hr hboth.1).symm.trans (decode_of_row w q hq hboth.2))

/-- A word that decodes to a row's command selects that row: it selects some row, and only this one gives the command. -/
theorem row_of_decode {w : Word} {r : Row} (hr : r ∈ rows) (h : decode w = .ok (r.instr (immField w) (subField w))) :
    w &&& r.mask = r.pattern := by
  by_contra hnot
  obtain ⟨e, he⟩ : ∃ e, decode w = .error e := by
    refine decode_error_of_no_row fun q hq hsel => ?_
    have hinstr := Except.ok.inj (h.symm.trans (decode_of_row w q hq hsel))
    exact hnot (List.inj_on_of_nodup_map (rows_instr_nodup (immField w) (subField w)) hr hq hinstr ▸ hsel)
  cases h.symm.trans he

theorem decode_error_iff_no_row {w : Word} : (∃ e, decode w = .error e) ↔ ∀ r ∈ rows, w &&& r.mask ≠ r.pattern := by
  constructor
  · rintro ⟨e, he⟩ r hr hsel
    cases he.symm.trans (decode_of_row w r hr hsel)
  · exact decode_error_of_no_row

/-! ### The illegal words (R84) -/

theorem decodeOp_eq_formatZ {w : Word} (h : (opField w).toNat ∈ [0x02, 0x03, 0x20, 0x21, 0x22, 0x23, 0x40]) :
    ∃ i, decodeOp w = formatZ w i := by
  simp only [List.mem_cons, List.not_mem_nil, or_false] at h
  rcases h with h | h | h | h | h | h | h <;> rw [decodeOp, h] <;> exact ⟨_, rfl⟩

theorem decodeOp_eq_formatR {w : Word} (h : (opField w).toNat ∈ [0x10, 0x11]) : ∃ i, decodeOp w = formatR w i := by
  simp only [List.mem_cons, List.not_mem_nil, or_false] at h
  rcases h with h | h <;> rw [decodeOp, h] <;> exact ⟨_, rfl⟩

theorem decodeOp_eq_formatIC {w : Word} (h : (opField w).toNat ∈ [0x31, 0x32]) : ∃ i j, decodeOp w = formatIC w i j := by
  simp only [List.mem_cons, List.not_mem_nil, or_false] at h
  rcases h with h | h <;> rw [decodeOp, h] <;> exact ⟨_, _, rfl⟩

/-- An opcode in none of the rows is unknown. -/
theorem decodeOp_unknown {w : Word}
    (h : (opField w).toNat ∉ [0x01, 0x02, 0x03, 0x10, 0x11, 0x20, 0x21, 0x22, 0x23, 0x30, 0x31, 0x32, 0x40]) :
    decodeOp w = .error .unknownOpcode := by
  unfold decodeOp
  split
  case h_14 => rfl
  all_goals
    rename_i hop
    simp [hop] at h

theorem illegalByFields_iff (w : Word) : IllegalByFields w ↔ FieldsIllegal (opField w).toNat (cField w)
    (rsv1Field w) (subField w) (rsv2Field w) (immField w) := Iff.rfl

/-- The list of R84 is a list of words the decoder rejects: an unknown opcode, or a reserved or unused field not zero. -/
theorem decode_error_of_illegalByFields {w : Word} (h : IllegalByFields w) : ∃ e, decode w = .error e := by
  refine decode_error_of_decodeOp fun ⟨hrsv1, hrsv2⟩ => ?_
  rcases (illegalByFields_iff w).1 h with
    hop | h | h | ⟨hop, hc⟩ | ⟨hop, hfields⟩ | ⟨hop, hfields⟩ | ⟨hop, hfields⟩ | ⟨hop, hsub⟩
  · exact ⟨_, decodeOp_unknown hop⟩
  · exact absurd hrsv1 h
  · exact absurd hrsv2 h
  · rw [decodeOp, hop]
    exact ⟨_, if_neg hc⟩
  · obtain ⟨i, hi⟩ := decodeOp_eq_formatZ hop
    exact ⟨_, hi.trans (if_neg (by simpa only [not_and_or] using hfields))⟩
  · obtain ⟨i, hi⟩ := decodeOp_eq_formatR hop
    exact ⟨_, hi.trans (if_neg (by simpa only [not_and_or, not_lt] using hfields))⟩
  · rw [decodeOp, hop]
    exact ⟨_, if_neg (by simpa only [not_and_or] using hfields)⟩
  · obtain ⟨i, j, hi⟩ := decodeOp_eq_formatIC hop
    exact ⟨_, hi.trans (if_neg hsub)⟩

/-! ### `CONFIG` -/

theorem decode_config_word (n : U32) (id : BitVec 8) : decode (commandWord 0x01 0 id n) = .ok (.config n id) := by
  have hrsv : ReservedZero (commandWord 0x01 0 id n) := ⟨rsv1Field_commandWord .., rsv2Field_commandWord ..⟩
  rw [decode_of_reservedZero hrsv]
  simp [decodeOp, formatG, opField_commandWord, cField_commandWord, subField_commandWord, immField_commandWord]

/-- The word of `CONFIG n, e` written as a number. -/
theorem config_word_eq {n e : Nat} (he : e < 256) :
    BitVec.ofNat 64 (0x01 + e * 2 ^ 16 + n * 2 ^ 32) = commandWord 0x01 0 (BitVec.ofNat 8 e) (BitVec.ofNat 32 n) := by
  apply BitVec.eq_of_toNat_eq
  simp only [commandWord_toNat, BitVec.toNat_ofNat, BitVec.ofNat_eq_ofNat]
  omega

namespace Machine

theorem engineOfId_eq_none {id : BitVec 8} (h : 3 ≤ id.toNat) : engineOfId id = none := by
  unfold engineOfId
  split
  case h_4 => rfl
  all_goals omega

/-- With a good door count, an `rng_id` outside the enumeration is the one fault of `CONFIG` (R230, R231). -/
theorem exec_config_badRng {n : U32} {id : BitVec 8} {s : State} (he : s.err = false) (hc : s.cfg = false)
    (hn : doorsOk params n = true) (hid : engineOfId id = none) :
    exec (.config n id) s = .next (raise .configRng (encode (.config n id)) s) := by
  simp [exec, execConfig, unlessPending, he, hc, hn, hid]

/-- A write to `CMD` is the step of its command, when the command answers a next state. -/
theorem step_of_runCommand {w : Word} {s t : State} {rest : List HostOp} (hops : s.hostOps = .wr 0 w :: rest)
    (h : runCommand w (s.withOps rest) = .next t) : step s = .next t := by
  rw [step_of_hostOps hops, perform, hostWrites, if_pos rfl, h, abandonedByReset_next]

theorem runCommand_of_decode {w : Word} {i : Instr} (s : State) (h : decode w = .ok i) : runCommand w s = exec i s := by
  rw [runCommand, h]

theorem runCommand_of_error {w : Word} {e : Reject} {s : State} (h : decode w = .error e) (he : s.err = false) :
    runCommand w s = .next (raise .illegal w s) := by
  rw [runCommand, h]
  exact unlessPending_clear _ he

end Machine

end Sys2Proof

namespace Sys2Proof

open Sys2Proof.Machine Sys2Proof.Claims

/-- Settles O3, row by row: a row selected gives its command, no row selected gives an error, and the rows' commands
differ. -/
theorem decodeFollowsOpcodeMap : Obligations.DecodeFollowsOpcodeMap := by
  unfold Obligations.DecodeFollowsOpcodeMap
  exact fun w => ⟨fun r hr => ⟨row_of_decode hr, decode_of_row w r hr⟩, rows_disjoint w, decode_error_iff_no_row⟩

/-- Settles O6: a word that R84 lists does not decode; a `CONFIG` word decodes, and `rng_id` is then what is wrong. -/
theorem illegalWordsRaiseIllegal : Obligations.IllegalWordsRaiseIllegal := by
  unfold Obligations.IllegalWordsRaiseIllegal
  refine ⟨fun s w rest hops he hw => ?_, fun s n e rest hops he hc hn3 hn32 he3 he256 => ?_⟩
  · obtain ⟨r, hr⟩ := decode_error_of_illegalByFields hw
    exact step_of_runCommand hops (runCommand_of_error hr he)
  · rw [config_word_eq he256] at hops ⊢
    have hdoors : doorsOk params (BitVec.ofNat 32 n) = true := by
      simp only [doorsOk, params_maskW, BitVec.toNat_ofNat, Nat.mod_eq_of_lt (show n < 2 ^ 32 by omega)]
      simp [hn3, hn32]
    have hid : engineOfId (BitVec.ofNat 8 e) = none :=
      engineOfId_eq_none (by simpa [Nat.mod_eq_of_lt he256] using he3)
    refine step_of_runCommand hops ?_
    rw [runCommand_of_decode _ (decode_config_word ..)]
    exact exec_config_badRng he hc hdoors hid

end Sys2Proof
end

section
/-! The rotates (R110) are the rotations of a 64-bit vector, their bits by position modulo 64, and the statement of
`40_bitrotate.md` that follows. -/

namespace Sys2Proof.Machine

theorem rotl64_eq_shifts {n : Nat} (a : Word) (hn : n ≠ 0) : rotl64 a n = (a <<< n ||| a >>> (64 - n)) := if_neg hn

theorem rotr64_eq_shifts {n : Nat} (a : Word) (hn : n ≠ 0) : rotr64 a n = (a >>> n ||| a <<< (64 - n)) := if_neg hn

@[simp] theorem rotl64_zero (a : Word) : rotl64 a 0 = a := rfl

@[simp] theorem rotr64_zero (a : Word) : rotr64 a 0 = a := rfl

theorem rotl64_eq_rotateLeft {n : Nat} (a : Word) (hn : n < 64) : rotl64 a n = a.rotateLeft n := by
  obtain rfl | h0 := eq_or_ne n 0
  · simp [BitVec.rotateLeft_def, BitVec.ushiftRight_eq_zero]
  · rw [rotl64_eq_shifts a h0, BitVec.rotateLeft_def, Nat.mod_eq_of_lt hn]

theorem rotr64_eq_rotateRight {n : Nat} (a : Word) (hn : n < 64) : rotr64 a n = a.rotateRight n := by
  obtain rfl | h0 := eq_or_ne n 0
  · simp [BitVec.rotateRight_def, BitVec.shiftLeft_eq_zero]
  · rw [rotr64_eq_shifts a h0, BitVec.rotateRight_def, Nat.mod_eq_of_lt hn]

/-- Bits below `n` come from the top of `a`, the others from `n` places below (R110). -/
theorem getLsbD_rotl64 {n i : Nat} (a : Word) (hn : n < 64) (hi : i < 64) :
    (rotl64 a n).getLsbD i = a.getLsbD ((i + 64 - n) % 64) := by
  rw [rotl64_eq_rotateLeft a hn, BitVec.getLsbD_rotateLeft_of_le hn]
  obtain hlt | hge := lt_or_ge i n
  · have hpos : (i + 64 - n) % 64 = 64 - n + i := by omega
    simp [hlt, hpos]
  · have hpos : (i + 64 - n) % 64 = i - n := by omega
    simp [hge.not_gt, hi, hpos]

/-- Bits below `64 - n` come from `n` places above, the others from the bottom of `a` (R110). -/
theorem getLsbD_rotr64 {n i : Nat} (a : Word) (hn : n < 64) (hi : i < 64) :
    (rotr64 a n).getLsbD i = a.getLsbD ((i + n) % 64) := by
  rw [rotr64_eq_rotateRight a hn, BitVec.getLsbD_rotateRight_of_lt hn]
  obtain hlt | hge := lt_or_ge i (64 - n)
  · have hpos : (i + n) % 64 = n + i := by omega
    simp [hlt, hpos]
  · have hpos : (i + n) % 64 = i - (64 - n) := by omega
    simp [hge.not_gt, hi, hpos]

theorem rotr64_eq_rotl64 {n : Nat} (a : Word) (hn : n < 64) : rotr64 a n = rotl64 a ((64 - n) % 64) := by
  refine BitVec.eq_of_getLsbD_eq fun i hi => ?_
  have hpos : (i + n) % 64 = (i + 64 - (64 - n) % 64) % 64 := by omega
  rw [getLsbD_rotr64 a hn hi, getLsbD_rotl64 a (by omega) hi, hpos]

end Sys2Proof.Machine

namespace Sys2Proof

open Sys2Proof.Machine

/-- Settles O11: each rotate is a rotation of the bit vector, so its bits are known, and the bits give one by the other. -/
theorem rotatesMoveBits : Obligations.RotatesMoveBits := by
  unfold Obligations.RotatesMoveBits
  refine fun a n hn => ⟨?zero, fun h1 => ?shifts, fun i hi => ?bits, rotr64_eq_rotl64 a hn⟩
  case zero => rintro rfl; exact ⟨rotl64_zero a, rotr64_zero a⟩
  case shifts => exact ⟨rotl64_eq_shifts a (by omega), rotr64_eq_shifts a (by omega)⟩
  case bits => exact ⟨getLsbD_rotl64 a hn hi, getLsbD_rotr64 a hn hi⟩

end Sys2Proof
end

section
/-! The steps of the engines in plain bit-vector arithmetic (R124 to R126), the prologue of the commands that need an
engine (R88), the illegal words of format Z (R84), and the statement of `41_prng_engines.md` that follows. -/

namespace Sys2Proof

open Sys2Proof.Machine Sys2Proof.Safety Sys2Proof.Claims

namespace Machine

/-! ### The steps of the engines -/

/-- The top six bits are a rotate amount in range, so the rotate is that of the bit vector (R67, R110). -/
theorem rotr64_top6 (a w : Word) : rotr64 a (top6 w) = a.rotateRight (w.toNat / 2 ^ 58) := by
  have hlt : top6 w < 64 := (w.extractLsb' 58 6).isLt
  have htop : top6 w = w.toNat / 2 ^ 58 := by
    rw [top6, BitVec.extractLsb'_toNat, Nat.shiftRight_eq_div_pow]
    omega
  rw [rotr64_eq_rotateRight a hlt, htop]

@[simp] theorem mcgState_setMcg (b : Bank) (t : U128) : mcgState (b.setMcg t) = t :=
  BitVec.extractLsb'_append_extractLsb' (w := 64) (len := 64)

theorem stepMCG128_state (b : Bank) :
    mcgState (stepMCG128 params b).2 = mcgState b * 0x0000000000000000DA942042E4DD58B5 :=
  mcgState_setMcg b _

/-- The output is that of the bank after the multiplication (D11). -/
theorem stepMCG128_output (b : Bank) :
    let b' := (stepMCG128 params b).2
    (stepMCG128 params b).1 = (b'.s1 ^^^ b'.s0).rotateRight (b'.s1.toNat / 2 ^ 58) :=
  rotr64_top6 _ _

theorem sfcUpdate_eq (b : Bank) (f ctr : Word) : sfcUpdate b f ctr = (b.s0 + b.s1 + f,
    ⟨b.s1 ^^^ (b.s1 >>> 11), b.s2 + (b.s2 <<< 3), b.s2.rotateLeft 24 + (b.s0 + b.s1 + f), ctr⟩) := by
  rw [← rotl64_eq_rotateLeft b.s2 (by decide)]
  rfl

/-! ### The prologue of the commands that need an engine -/

theorem exec_pending {i : Instr} {s : State} (hn : needsEngine i = true) (he : s.err = true) : exec i s = .next s := by
  by_cases hi : i = .seed
  · rw [hi, exec_seed, drawing_pending he]
  · obtain ⟨x, hx⟩ := exec_eq_drawing s hn hi
    rw [hx, drawing_pending he]

theorem refusedUnready_of_needsEngine {i : Instr} (hn : needsEngine i = true) : RefusedUnready i :=
  fun _ => ⟨exec_pending hn, exec_notReady hn⟩

theorem exec_next_of_ready {s : State} (he : s.err = false) (hc : s.cfg = true) :
    exec .next s = .next (resultState (nextWord params s.eng s.bank).1 (nextWord params s.eng s.bank).2 s) :=
  drawing_ready he hc rfl

end Machine

/-! ### The illegal words of format Z -/

/-- An opcode of format Z has one word: `c`, `sub` and `imm32` are zero in it. -/
theorem decode_error_of_formatZ {w : Word} (hop : (opField w).toNat ∈ [0x02, 0x03, 0x20, 0x21, 0x22, 0x23, 0x40])
    (hw : w ≠ commandWord (opField w) 0 0 0) : ∃ e, decode w = .error e := by
  refine decode_error_of_decodeOp fun hrsv => ?_
  obtain ⟨i, hi⟩ := decodeOp_eq_formatZ hop
  refine ⟨_, hi.trans (if_neg ?_)⟩
  rintro ⟨hc, hsub, himm⟩
  have hfields := word_of_fields w hrsv.1 hrsv.2
  rw [hc, hsub, himm] at hfields
  exact hw hfields

theorem illegalUnless_of_formatZ {op : BitVec 8} (hop : op.toNat ∈ [0x02, 0x03, 0x20, 0x21, 0x22, 0x23, 0x40]) :
    IllegalUnless op (· = commandWord op 0 0 0) := by
  rintro s w rest hops he rfl hw
  obtain ⟨e, hdec⟩ := decode_error_of_formatZ hop hw
  exact step_of_runCommand hops (runCommand_of_error hdec he)

/-- Settles O15: a ready block takes one step of the selected engine, which is that engine's recurrence; `NEXT` needs an
engine and has format Z. -/
theorem nextStepsTheSelectedEngine : Obligations.NextStepsTheSelectedEngine := by
  unfold Obligations.NextStepsTheSelectedEngine
  refine ⟨fun s ⟨he, hc⟩ => ⟨_, _, exec_next_of_ready he hc, ?_⟩, refusedUnready_of_needsEngine rfl,
    illegalUnless_of_formatZ (op := 0x20) (by decide)⟩
  cases s.eng with
  | mcg128 =>
    obtain ⟨hs2, hs3⟩ := nextWord_mcg_frame params s.bank
    exact ⟨stepMCG128_state s.bank, hs2, hs3, stepMCG128_output s.bank⟩
  | sfcCounter => simp [nextWord, stepSFC, sfcUpdate_eq]
  | sfcPcgCounter => simp [nextWord, stepSFCPCG, sfcUpdate_eq, rotr64_top6, params]

end Sys2Proof
end

section
/-! The draws of 32 and of 52 bits (R150, R151), the subtraction of `FRAND` in closed form (R152), and the statements of
`42_uniform.md` that follow. -/

namespace Sys2Proof

open Sys2Proof.Machine Sys2Proof.Claims

namespace Machine

/-! ### The top bits of a word -/

theorem toNat_extractLsb'_top {k n : Nat} (w : Word) (h : k + n = 64) :
    (w.extractLsb' k n).toNat = w.toNat / 2 ^ k := by
  have hlt : w.toNat / 2 ^ k < 2 ^ n := Nat.div_lt_of_lt_mul (by rw [← Nat.pow_add, h]; exact w.isLt)
  rw [BitVec.extractLsb'_toNat, Nat.shiftRight_eq_div_pow, Nat.mod_eq_of_lt hlt]

theorem setWidth_extractLsb'_top {k n : Nat} (w : Word) (h : k + n = 64) :
    (w.extractLsb' k n).setWidth 64 = BitVec.ofNat 64 (w.toNat / 2 ^ k) := by
  rw [← BitVec.ofNat_toNat, toNat_extractLsb'_top w h]

/-! ### The patterns of `[1,2)` -/

theorem oneToTwo_toNat (d : BitVec 52) : (oneToTwo d).toNat = 0x3FF * 2 ^ 52 + d.toNat := by
  simp only [oneToTwo, toNat_append_eq_add, BitVec.toNat_ofNat]
  omega

theorem oneToTwo_eq_ofNat (d : BitVec 52) : oneToTwo d = BitVec.ofNat 64 (0x3FF * 2 ^ 52 + d.toNat) := by
  rw [← oneToTwo_toNat, BitVec.ofNat_toNat, BitVec.setWidth_eq]

theorem f64One_eq_oneToTwo : f64One = oneToTwo 0 := rfl

@[simp] theorem f64Neg_oneToTwo (d : BitVec 52) : f64Neg (oneToTwo d) = false := by
  rw [f64Neg, BitVec.msb_eq_decide, oneToTwo_toNat]
  simp
  omega

@[simp] theorem f64Mag_oneToTwo (d : BitVec 52) : f64Mag (oneToTwo d) = 0x3FF * 2 ^ 52 + d.toNat := by
  rw [f64Mag, BitVec.toNat_setWidth, oneToTwo_toNat]
  omega

@[simp] theorem f64Exp_oneToTwo (d : BitVec 52) : f64Exp (oneToTwo d) = 0x3FF := by
  rw [f64Exp, BitVec.extractLsb'_toNat, oneToTwo_toNat, Nat.shiftRight_eq_div_pow]
  omega

@[simp] theorem f64Frac_oneToTwo (d : BitVec 52) : f64Frac (oneToTwo d) = d.toNat := by
  rw [f64Frac, BitVec.extractLsb'_toNat, oneToTwo_toNat, Nat.shiftRight_eq_div_pow]
  omega

@[simp] theorem f64Scale_oneToTwo (d : BitVec 52) : f64Scale (oneToTwo d) = 0x3FF := by
  simp [f64Scale]

@[simp] theorem f64Signed_oneToTwo (d : BitVec 52) : f64Signed (oneToTwo d) = 2 ^ 52 + d.toNat := by
  simp [f64Signed, f64Sig]

/-! ### The subtraction -/

theorem f64Sub_of_finite {a b : Word} (ha : f64Mag a < 0x7FF0000000000000) (hb : f64Mag b < 0x7FF0000000000000) :
    f64Sub a b = f64SubFinite a b := by
  simp [f64Sub, f64IsNaN, f64IsInf, ha.ne, hb.ne, ha.le.not_gt, hb.le.not_gt]

/-- The significand moved up to its place has 53 bits. -/
theorem normalized_bounds {m : Nat} (hm : m ≠ 0) (hlog : m.log2 ≤ 52) :
    2 ^ 52 ≤ m * 2 ^ (52 - m.log2) ∧ m * 2 ^ (52 - m.log2) < 2 ^ 53 := by
  have hsplit : (2 : Nat) ^ m.log2 * 2 ^ (52 - m.log2) = 2 ^ 52 := by rw [← Nat.pow_add, Nat.add_sub_cancel' hlog]
  constructor
  · calc 2 ^ 52 = 2 ^ m.log2 * 2 ^ (52 - m.log2) := hsplit.symm
      _ ≤ m * 2 ^ (52 - m.log2) := Nat.mul_le_mul_right _ (Nat.log2_self_le hm)
  · calc m * 2 ^ (52 - m.log2) < 2 ^ (m.log2 + 1) * 2 ^ (52 - m.log2) :=
          Nat.mul_lt_mul_of_pos_right Nat.lt_log2_self (by positivity)
      _ = 2 ^ 53 := by rw [Nat.pow_succ, Nat.mul_right_comm, hsplit, ← Nat.pow_succ]

/-- A number of at most 53 bits whose leading bit stays in the normal range is packed without rounding. -/
theorem packMag_exact {m e : Nat} (hm : m ≠ 0) (hlog : m.log2 ≤ 52) (hlo : 53 ≤ e + m.log2)
    (hhi : e + m.log2 ≤ 2098) :
    packMag m e = (e + m.log2 - 53) * 2 ^ 52 + m * 2 ^ (52 - m.log2) := by
  have hmax : max (e + m.log2 - 52) 1 = e + m.log2 - 52 := by omega
  have hle : e + m.log2 - 52 ≤ e := by omega
  have hshift : e - (e + m.log2 - 52) = 52 - m.log2 := by omega
  obtain ⟨-, hsig⟩ := normalized_bounds hm hlog
  simp only [packMag, hmax, if_pos hle, hshift]
  omega

theorem f64Make_false {mag : Nat} (h : mag < 2 ^ 63) : f64Make false mag = BitVec.ofNat 64 mag := by
  apply BitVec.eq_of_toNat_eq
  simp only [f64Make, toNat_append_eq_add, BitVec.toNat_ofBool, BitVec.toNat_ofNat, Bool.toNat_false]
  omega

/-- Two patterns of `[1,2)` have one exponent, so the significands are subtracted as they stand: `1.0` takes away the
leading bit. -/
theorem f64SubFinite_oneToTwo_one (d : BitVec 52) :
    f64SubFinite (oneToTwo d) (oneToTwo 0) = f64Make false (if d.toNat = 0 then 0 else packMag d.toNat 0x3FF) := by
  have hpos : ¬ (d.toNat : Int) < 0 := by omega
  by_cases h0 : d.toNat = 0
  · simp [f64SubFinite, h0]
  · simp [f64SubFinite, h0, hpos]

/-- `p - 1.0` is exact: the fraction field of `p`, packed as a double. -/
theorem f64Sub_oneToTwo_one (d : BitVec 52) : f64Sub (oneToTwo d) f64One = frandBits d.toNat := by
  have hfinite (x : BitVec 52) : f64Mag (oneToTwo x) < 0x7FF0000000000000 := by
    rw [f64Mag_oneToTwo]
    omega
  rw [f64One_eq_oneToTwo, f64Sub_of_finite (hfinite d) (hfinite 0), f64SubFinite_oneToTwo_one, frandBits]
  by_cases h0 : d.toNat = 0
  · rw [if_pos h0, if_pos h0]
    rfl
  · have hlog := (Nat.log2_lt h0).2 d.isLt
    obtain ⟨hlo, hhi⟩ := normalized_bounds h0 hlog.le
    rw [if_neg h0, if_neg h0, packMag_exact h0 hlog.le (by omega) (by omega), f64Make_false (by omega)]
    exact congrArg (BitVec.ofNat 64) (by omega)

theorem frandBits_lt_one {d : Nat} (hd : d < 2 ^ 52) : (frandBits d).toNat < 0x3FF0000000000000 := by
  by_cases h0 : d = 0
  · simp [frandBits, h0]
  · have hlog := (Nat.log2_lt h0).2 hd
    obtain ⟨hlo, hhi⟩ := normalized_bounds h0 hlog.le
    rw [frandBits, if_neg h0, BitVec.toNat_ofNat]
    omega

/-! ### The three draws -/

theorem rand52_toNat (e : Engine) (b : Bank) : (rand52 params e b).1.toNat = (nextWord params e b).1.toNat / 2 ^ 12 :=
  toNat_extractLsb'_top _ rfl

theorem frand_value (e : Engine) (b : Bank) : (frand params e b).1 = frandValue e b := by
  rw [frandValue, ← rand52_toNat, ← oneToTwo_eq_ofNat]
  rfl

theorem frandValue_lt_one (e : Engine) (b : Bank) : (frandValue e b).toNat < 0x3FF0000000000000 := by
  rw [← frand_value, frand, f64Sub_oneToTwo_one]
  exact frandBits_lt_one (rand52 params e b).1.isLt

theorem exec_rand32_of_ready {s : State} (he : s.err = false) (hc : s.cfg = true) : exec .rand32 s = .next (resultState
    (BitVec.ofNat 64 ((nextWord params s.eng s.bank).1.toNat / 2 ^ 32)) (nextWord params s.eng s.bank).2 s) := by
  rw [← setWidth_extractLsb'_top (n := 32) _ rfl]
  exact drawing_ready he hc rfl

theorem exec_rand52_of_ready {s : State} (he : s.err = false) (hc : s.cfg = true) : exec .rand52 s = .next (resultState
    (BitVec.ofNat 64 ((nextWord params s.eng s.bank).1.toNat / 2 ^ 12)) (nextWord params s.eng s.bank).2 s) := by
  rw [← setWidth_extractLsb'_top (n := 52) _ rfl]
  exact drawing_ready he hc rfl

theorem exec_frand_of_ready {s : State} (he : s.err = false) (hc : s.cfg = true) :
    exec .frand s = .next (resultState (frandValue s.eng s.bank) (nextWord params s.eng s.bank).2 s) := by
  rw [← frand_value, ← frand_bank]
  exact drawing_ready he hc rfl

end Machine

/-- Settles O23: a ready block answers the top half of one word; `RAND32` needs an engine and has format Z. -/
theorem rand32ReturnsTheTopHalf : Obligations.Rand32ReturnsTheTopHalf := by
  unfold Obligations.Rand32ReturnsTheTopHalf
  exact ⟨fun s ⟨he, hc⟩ => exec_rand32_of_ready he hc, refusedUnready_of_needsEngine rfl,
    illegalUnless_of_formatZ (op := 0x21) (by decide)⟩

/-- Settles O24: a ready block answers the top 52 bits of one word; `RAND52` needs an engine and has format Z. -/
theorem rand52ReturnsTheTop52Bits : Obligations.Rand52ReturnsTheTop52Bits := by
  unfold Obligations.Rand52ReturnsTheTop52Bits
  exact ⟨fun s ⟨he, hc⟩ => exec_rand52_of_ready he hc, refusedUnready_of_needsEngine rfl,
    illegalUnless_of_formatZ (op := 0x22) (by decide)⟩

/-- Settles O25: a ready block answers `p - 1.0`, whose closed form is a pattern below that of `1.0`; `FRAND` needs an
engine and has format Z. -/
theorem frandReturnsAUnitDouble : Obligations.FrandReturnsAUnitDouble := by
  unfold Obligations.FrandReturnsAUnitDouble
  exact ⟨fun s ⟨he, hc⟩ => exec_frand_of_ready he hc, frandValue_lt_one, refusedUnready_of_needsEngine rfl,
    illegalUnless_of_formatZ (op := 0x23) (by decide)⟩

end Sys2Proof
end

section
/-! The threshold and the products of the bounded sampler (R165, R166), the loop that stops at the first accepted draw
within its fuel (log 7), and the statements of `43_bounded.md` that follow. -/

namespace Sys2Proof

open Sys2Proof.Machine Sys2Proof.Safety Sys2Proof.Claims

namespace Machine

/-! ### The threshold -/

theorem toNat_pos_of_ne_zero {r : U32} (hr : r ≠ 0) : 0 < r.toNat :=
  Nat.pos_of_ne_zero fun h => hr (BitVec.eq_of_toNat_eq h)

theorem threshold_toNat {r : U32} (hr : r ≠ 0) : (threshold r).toNat = (2 ^ 32 - r.toNat) % r.toNat := by
  have hlt := Nat.mod_lt (2 ^ 32 - r.toNat) (toNat_pos_of_ne_zero hr)
  rw [threshold, BitVec.toNat_ofNat, Nat.mod_eq_of_lt (hlt.trans r.isLt)]

theorem threshold_toNat_eq_mod {r : U32} (hr : r ≠ 0) : (threshold r).toNat = 2 ^ 32 % r.toNat := by
  rw [threshold_toNat hr, ← Nat.mod_eq_sub_mod r.isLt.le]

theorem threshold_lt {r : U32} (hr : r ≠ 0) : (threshold r).toNat < r.toNat := by
  rw [threshold_toNat hr]
  exact Nat.mod_lt _ (toNat_pos_of_ne_zero hr)

theorem threshold_eq_neg_umod {r : U32} (hr : r ≠ 0) : threshold r = (-r) % r := by
  have hneg : 2 ^ 32 - r.toNat < 2 ^ 32 := Nat.sub_lt (by decide) (toNat_pos_of_ne_zero hr)
  apply BitVec.eq_of_toNat_eq
  rw [threshold_toNat hr, BitVec.toNat_umod, BitVec.toNat_neg, Nat.mod_eq_of_lt hneg]

theorem threshold_eq_zero_iff_dvd {r : U32} (hr : r ≠ 0) : threshold r = 0 ↔ r.toNat ∣ 2 ^ 32 := by
  rw [Nat.dvd_iff_mod_eq_zero, ← threshold_toNat_eq_mod hr, ← BitVec.toNat_inj]
  rfl

/-- The divisors of `2^32` that 32 bits hold are the powers of two below it. -/
theorem dvd_two_pow_32_iff (r : U32) : r.toNat ∣ 2 ^ 32 ↔ ∃ k, k < 32 ∧ r.toNat = 2 ^ k := by
  rw [Nat.dvd_prime_pow Nat.prime_two]
  constructor
  · rintro ⟨k, -, hk⟩
    exact ⟨k, (Nat.pow_lt_pow_iff_right (by decide)).1 (hk ▸ r.isLt), hk⟩
  · rintro ⟨k, hk, hr⟩
    exact ⟨k, hk.le, hr⟩

/-! ### The product of a draw and the range -/

theorem mul32x32_toNat (x r : U32) : (mul32x32 x r).toNat = x.toNat * r.toNat := by
  have hlt : x.toNat * r.toNat < 2 ^ 64 :=
    (Nat.mul_lt_mul'' x.isLt r.isLt).trans_eq (Nat.pow_add 2 32 32).symm
  have hx : (x.setWidth 64).toNat = x.toNat := BitVec.toNat_setWidth_of_le (by decide)
  have hr : (r.setWidth 64).toNat = r.toNat := BitVec.toNat_setWidth_of_le (by decide)
  rw [mul32x32, BitVec.toNat_mul, hx, hr, Nat.mod_eq_of_lt hlt]

theorem lo32_mul32x32_toNat (x r : U32) : (lo32 (mul32x32 x r)).toNat = x.toNat * r.toNat % 2 ^ 32 := by
  rw [lo32, BitVec.toNat_setWidth, mul32x32_toNat]

theorem hi32_mul32x32_toNat (x r : U32) : (hi32 (mul32x32 x r)).toNat = x.toNat * r.toNat / 2 ^ 32 := by
  rw [hi32, toNat_extractLsb'_top _ rfl, mul32x32_toNat]

theorem draw_eq_rand32 (e : Engine) (b : Bank) (n : Nat) :
    draw e b n = (rand32 params e (bankAfter params e n b)).1.toNat :=
  (toNat_extractLsb'_top _ rfl).symm

/-! ### The stream of draws -/

theorem rejected_add (e : Engine) (r : U32) (b : Bank) (m n : Nat) :
    rejected e r b (m + n) = rejected e r (bankAfter params e m b) n := by
  rw [rejected, draw, bankAfter_add, rejected, draw]

theorem rejected_succ (e : Engine) (r : U32) (b : Bank) (n : Nat) :
    rejected e r b (n + 1) = rejected e r (nextWord params e b).2 n := rfl

/-- The loop's test on the next product (R165) is the rejection of draw 0. -/
theorem lo32_lt_threshold_iff {r : U32} (hr : r ≠ 0) (e : Engine) (b : Bank) :
    lo32 (mul32x32 (rand32 params e b).1 r) < threshold r ↔ rejected e r b 0 = true := by
  rw [BitVec.lt_def, lo32_mul32x32_toNat, threshold_toNat_eq_mod hr, rejected, draw_eq_rand32, decide_eq_true_iff,
    bankAfter_zero]

/-- MCG128 never writes the two words that its test for a repeated content does not look at (R124). -/
theorem nextWord_eq_of_unmoved {c : Config} {e : Engine} {b : Bank} (h : unmoved e b (nextWord c e b).2 = true) :
    (nextWord c e b).2 = b := by
  cases e with
  | mcg128 =>
    obtain ⟨hs0, hs1⟩ := Bool.and_eq_true_iff.1 h
    exact congrArg₂ (Bank.mk · · b.s2 b.s3) (eq_of_beq hs0) (eq_of_beq hs1)
  | sfcCounter | sfcPcgCounter => exact eq_of_beq h

/-! ### The fuel is enough -/

/-- The content of the four words of `S` as one number. -/
def Bank.toNat (b : Bank) : Nat :=
  b.s0.toNat + 2 ^ 64 * (b.s1.toNat + 2 ^ 64 * (b.s2.toNat + 2 ^ 64 * b.s3.toNat))

theorem Bank.toNat_lt (b : Bank) : b.toNat < 2 ^ 256 := by
  unfold Bank.toNat
  omega

theorem Bank.eq_of_toNat_eq {b b' : Bank} (h : b.toNat = b'.toNat) : b = b' := by
  cases b
  cases b'
  simp only [Bank.toNat] at h
  simp only [Bank.mk.injEq, ← BitVec.toNat_inj]
  omega

/-- Among more than `2^256` banks of a stream some content comes back. -/
theorem exists_bankAfter_eq (e : Engine) (b : Bank) {n : Nat} (hn : 2 ^ 256 ≤ n) :
    ∃ i j, i < j ∧ j ≤ n ∧ bankAfter params e i b = bankAfter params e j b := by
  obtain ⟨i, hi, j, hj, hne, heq⟩ := Finset.exists_ne_map_eq_of_card_lt_of_maps_to
    (s := Finset.range (n + 1)) (t := Finset.range (2 ^ 256)) (f := fun i => (bankAfter params e i b).toNat)
    (by rw [Finset.card_range, Finset.card_range]; exact Nat.lt_succ_of_le hn)
    (fun i _ => Finset.mem_coe.2 (Finset.mem_range.2 (Bank.toNat_lt _)))
  have hbank := Bank.eq_of_toNat_eq heq
  rw [Finset.mem_range, Nat.lt_succ_iff] at hi hj
  rcases Nat.lt_or_gt_of_ne hne with hlt | hlt
  · exact ⟨i, j, hlt, hj, hbank⟩
  · exact ⟨j, i, hlt, hi, hbank.symm⟩

/-- The first accepted draw comes before a content of `S` comes back: a content that came back would have had the same
draw accepted earlier (log 7). -/
theorem firstAccepted_lt {e : Engine} {r : U32} {b : Bank} {n : Nat} (hrej : ∀ j, j < n → rejected e r b j = true)
    (hacc : rejected e r b n = false) : n < 2 ^ 256 := by
  by_contra hn
  obtain ⟨i, j, hij, hjn, hbank⟩ := exists_bankAfter_eq e b (Nat.le_of_not_lt hn)
  have hearlier : rejected e r b (i + (n - j)) = rejected e r b n := by
    rw [rejected_add, hbank, ← rejected_add, Nat.add_sub_cancel' hjn]
  rw [hrej _ (by omega), hacc] at hearlier
  cases hearlier

/-! ### The loop -/

/-- With fuel for it, the loop answers the first accepted draw: a rejected draw that leaves `S` as it was would be followed
by rejected draws only. -/
theorem redraw_of_firstAccepted {e : Engine} {r : U32} (hr : r ≠ 0) {n fuel : Nat} {b : Bank} (hfuel : n < fuel)
    (hrej : ∀ j, j < n → rejected e r b j = true) (hacc : rejected e r b n = false) :
    redraw params e r (threshold r) fuel b =
      .done (hi32 (mul32x32 (rand32 params e (bankAfter params e n b)).1 r)) (bankAfter params e (n + 1) b) := by
  induction n generalizing fuel b with
  | zero =>
    obtain ⟨fuel, rfl⟩ := Nat.exists_eq_add_one.2 hfuel
    exact if_neg (mt (lo32_lt_threshold_iff hr e b).1 (Bool.eq_false_iff.1 hacc))
  | succ n ih =>
    obtain ⟨fuel, rfl⟩ := Nat.exists_eq_add_one.2 (Nat.zero_lt_of_lt hfuel)
    have hmoved : ¬ unmoved e b (nextWord params e b).2 = true := fun h => by
      rw [rejected_succ, nextWord_eq_of_unmoved h, hrej n n.lt_succ_self] at hacc
      cases hacc
    rw [redraw, if_pos ((lo32_lt_threshold_iff hr e b).2 (hrej 0 n.succ_pos)), rand32_bank, if_neg hmoved]
    exact ih (Nat.lt_of_succ_lt_succ hfuel) (fun j hj => hrej (j + 1) (Nat.succ_lt_succ hj)) hacc

/-- `Bounded` tests `low < range` before it computes the threshold; the threshold is below the range, so the test alone
decides. -/
theorem bounded_of_accepted {e : Engine} {r : U32} {b : Bank} (hr : r ≠ 0) (hacc : rejected e r b 0 = false) :
    bounded params e r b = .done (hi32 (mul32x32 (rand32 params e b).1 r)) (nextWord params e b).2 :=
  if_neg fun h => Bool.eq_false_iff.1 hacc ((lo32_lt_threshold_iff hr e b).1 h.2)

theorem bounded_of_rejected {e : Engine} {r : U32} {b : Bank} (hr : r ≠ 0) (hrej : rejected e r b 0 = true) :
    bounded params e r b = redraw params e r (threshold r) (redrawFuel params) (nextWord params e b).2 := by
  have hlow := (lo32_lt_threshold_iff hr e b).2 hrej
  exact if_pos ⟨BitVec.lt_def.2 ((BitVec.lt_def.1 hlow).trans (threshold_lt hr)), hlow⟩

theorem redrawFuel_params : redrawFuel params = 2 ^ 256 := rfl

theorem bounded_of_firstAccepted {e : Engine} {r : U32} {b : Bank} {n : Nat} (hr : r ≠ 0)
    (hrej : ∀ j, j < n → rejected e r b j = true) (hacc : rejected e r b n = false) :
    bounded params e r b =
      .done (hi32 (mul32x32 (rand32 params e (bankAfter params e n b)).1 r)) (bankAfter params e (n + 1) b) := by
  cases n with
  | zero => exact bounded_of_accepted hr hacc
  | succ n =>
    have hfuel : n < redrawFuel params := by
      rw [redrawFuel_params]
      exact Nat.lt_of_succ_lt (firstAccepted_lt hrej hacc)
    rw [bounded_of_rejected hr (hrej 0 n.succ_pos)]
    exact redraw_of_firstAccepted hr hfuel (fun j hj => hrej (j + 1) (Nat.succ_lt_succ hj)) hacc

/-- `Bounded` answers what the unbounded loop yields (R165). -/
theorem bounded_of_yields {e : Engine} {r : U32} {b b' : Bank} {v : Nat} (hr : r ≠ 0) (h : Yields e r b v b') :
    ∃ u : U32, u.toNat = v ∧ bounded params e r b = .done u b' := by
  obtain ⟨n, hrej, hacc, rfl, rfl⟩ := h
  refine ⟨_, ?_, bounded_of_firstAccepted hr hrej hacc⟩
  rw [hi32_mul32x32_toNat, draw_eq_rand32]

/-! ### `BOUNDED` -/

theorem exec_bounded_of_ready {s : State} {r : U32} (he : s.err = false) (hc : s.cfg = true) (hr : r ≠ 0) :
    exec (.bounded r) s = finish s (zext64 (bounded params s.eng r s.bank)) :=
  drawing_ready he hc (bne_iff_ne.2 hr)

theorem finish_zext64_done (s : State) (u : U32) (b : Bank) :
    finish s (zext64 (.done u b)) = .next (resultState (BitVec.ofNat 64 u.toNat) b s) := by
  rw [BitVec.ofNat_toNat]
  rfl

theorem exec_bounded_of_yields {s : State} {r : U32} {v : Nat} {b : Bank} (he : s.err = false) (hc : s.cfg = true)
    (hr : r ≠ 0) (h : Yields s.eng r s.bank v b) :
    exec (.bounded r) s = .next (resultState (BitVec.ofNat 64 v) b s) := by
  obtain ⟨u, rfl, hu⟩ := bounded_of_yields hr h
  rw [exec_bounded_of_ready he hc hr, hu, finish_zext64_done]

end Machine

/-! ### The illegal words of format I -/

/-- The word of a command with an `imm32` operand, written as a number. -/
theorem imm_word_eq (op : BitVec 8) (c : BitVec 1) (imm : U32) :
    commandWord op c 0 imm = BitVec.ofNat 64 (op.toNat + c.toNat * 2 ^ 8 + imm.toNat * 2 ^ 32) := by
  apply BitVec.eq_of_toNat_eq
  simp only [commandWord_toNat, BitVec.toNat_ofNat, BitVec.ofNat_eq_ofNat]
  omega

/-- A word with the opcode of `BOUNDED` that is none of its words has `c` or `sub` not zero. -/
theorem decode_error_of_bounded_op {w : Word} (hop : opField w = 0x30) (hw : ∀ r, w ≠ commandWord 0x30 0 0 r) :
    ∃ e, decode w = .error e := by
  refine decode_error_of_decodeOp fun hrsv => ⟨.unusedField, ?_⟩
  have hformat : decodeOp w = formatI w .bounded := by simp [decodeOp, hop]
  rw [hformat]
  refine if_neg ?_
  rintro ⟨hc, hsub⟩
  have hfields := word_of_fields w hrsv.1 hrsv.2
  rw [hop, hc, hsub] at hfields
  exact hw _ hfields

theorem illegalUnless_bounded : IllegalUnless 0x30 (fun w => ∃ r, w = BitVec.ofNat 64 (0x30 + r * 2 ^ 32)) := by
  rintro s w rest hops he hop hw
  obtain ⟨e, hdec⟩ := decode_error_of_bounded_op hop fun r hr => hw ⟨r.toNat, hr.trans (imm_word_eq 0x30 0 r)⟩
  exact step_of_runCommand hops (runCommand_of_error hdec he)

/-- Settles O27: `2^32 - range` and `2^32` leave one remainder, and the divisors of `2^32` are the powers of two. -/
theorem thresholdIsTheRemainder : Obligations.ThresholdIsTheRemainder := by
  unfold Obligations.ThresholdIsTheRemainder
  intro r hr
  exact ⟨threshold_eq_neg_umod hr, threshold_toNat hr, threshold_toNat_eq_mod hr, threshold_lt hr,
    threshold_eq_zero_iff_dvd hr, (threshold_eq_zero_iff_dvd hr).trans (dvd_two_pow_32_iff r)⟩

/-- Settles O28: the first accepted draw comes before a content of `S` comes back, so the loop reaches it within its fuel;
`BOUNDED` needs an engine and has format I. -/
theorem boundedReturnsTheFirstAcceptedDraw : Obligations.BoundedReturnsTheFirstAcceptedDraw := by
  unfold Obligations.BoundedReturnsTheFirstAcceptedDraw
  exact ⟨fun _ _ _ _ ⟨he, hc⟩ hr h => exec_bounded_of_yields he hc hr h, fun _ ⟨he, hc⟩ => drawing_outOfRange he hc,
    fun _ => refusedUnready_of_needsEngine rfl, illegalUnless_bounded⟩

end Sys2Proof
end

section
/-! `SAMPLE` as a bounded draw (R180, R183), the illegal words of format IC, and the statement of `44_cdf.md` that
follows. -/

namespace Sys2Proof

open Sys2Proof.Machine Sys2Proof.Claims

namespace Machine

/-! ### `SAMPLE` -/

/-- `BOUNDED m` and `SAMPLE m` differ in the word they fail with, which a ready block with an operand in range never
takes. -/
theorem exec_sample_eq_exec_bounded {s : State} {m : U32} (he : s.err = false) (hc : s.cfg = true) (hm : m ≠ 0) :
    exec (.sample m) s = exec (.bounded m) s :=
  (drawing_ready he hc (bne_iff_ne.2 hm)).trans (exec_bounded_of_ready he hc hm).symm

theorem exec_sample_of_yields {s : State} {m : U32} {v : Nat} {b : Bank} (he : s.err = false) (hc : s.cfg = true)
    (hm : m ≠ 0) (h : Yields s.eng m s.bank v b) :
    exec (.sample m) s = .next (resultState (BitVec.ofNat 64 v) b s) :=
  (exec_sample_eq_exec_bounded he hc hm).trans (exec_bounded_of_yields he hc hm h)

theorem exec_sample_zero {s : State} (he : s.err = false) (hc : s.cfg = true) :
    exec (.sample 0) s = .next (errorState 5 0x0000000000000031 s) :=
  drawing_outOfRange he hc

end Machine

/-! ### The illegal words of format IC -/

/-- A word with an opcode of format IC that is none of the opcode's words has `sub` or a reserved field not zero. -/
theorem decode_error_of_formatIC {w : Word} (hop : (opField w).toNat ∈ [0x31, 0x32])
    (hw : ∀ c imm, w ≠ commandWord (opField w) c 0 imm) : ∃ e, decode w = .error e := by
  refine decode_error_of_decodeOp fun hrsv => ?_
  obtain ⟨i, j, hij⟩ := decodeOp_eq_formatIC hop
  refine ⟨_, hij.trans (if_neg fun hsub => ?_)⟩
  have hfields := word_of_fields w hrsv.1 hrsv.2
  rw [hsub] at hfields
  exact hw _ _ hfields

/-- `c` has two values, so the words of an opcode of format IC are those of its two forms. -/
theorem illegalUnless_of_formatIC {op : BitVec 8} (hop : op.toNat ∈ [0x31, 0x32]) :
    IllegalUnless op (fun w => ∃ m, w = BitVec.ofNat 64 (op.toNat + m * 2 ^ 32)
      ∨ w = BitVec.ofNat 64 (op.toNat + 0x100 + m * 2 ^ 32)) := by
  rintro s w rest hops he rfl hw
  have hnone : ∀ c imm, w ≠ commandWord (opField w) c 0 imm := by
    intro c imm hword
    have hnum := hword.trans (imm_word_eq _ c imm)
    rcases BitVec.eq_zero_or_eq_one c with rfl | rfl
    · exact hw ⟨_, .inl hnum⟩
    · exact hw ⟨_, .inr hnum⟩
  obtain ⟨e, hdec⟩ := decode_error_of_formatIC hop hnone
  exact step_of_runCommand hops (runCommand_of_error hdec he)

/-- Settles O33: a ready block answers `SAMPLE m` as it answers `BOUNDED m`, so the table plays no part; `SAMPLE` needs an
engine and has format IC. -/
theorem sampleIsBounded : Obligations.SampleIsBounded := by
  unfold Obligations.SampleIsBounded
  exact ⟨fun _ _ _ _ ⟨he, hc⟩ hm h => exec_sample_of_yields he hc hm h,
    fun _ _ ⟨he, hc⟩ hm => exec_sample_eq_exec_bounded he hc hm, fun _ ⟨he, hc⟩ => exec_sample_zero he hc,
    fun _ => refusedUnready_of_needsEngine rfl, illegalUnless_of_formatIC (op := 0x31) (by decide)⟩

end Sys2Proof
end

section
/-! The scan of R196 against the rank of a bit, and the statement of `45_doorset.md` that follows. -/

namespace Sys2Proof

open Sys2Proof.Machine Sys2Proof.Claims

/-! ### The rank of a position -/

theorem rank_eq_count (P : Nat → Bool) (d : Nat) : rank P d = Nat.count (fun i => P i = true) d := by
  simp [rank, Nat.count, List.countP_eq_length_filter]

@[simp] theorem rank_zero (P : Nat → Bool) : rank P 0 = 0 := rfl

theorem rank_succ (P : Nat → Bool) (d : Nat) : rank P (d + 1) = rank P d + if P d = true then 1 else 0 := by
  simp only [rank_eq_count, Nat.count_succ]

theorem rank_lt_rank {P : Nat → Bool} {d n : Nat} (hd : P d = true) (hdn : d < n) : rank P d < rank P n := by
  simpa only [rank_eq_count] using Nat.count_strict_mono (p := fun i => P i = true) hd hdn

theorem eq_of_rank_eq {P : Nat → Bool} {d d' : Nat} (hd : P d = true) (hd' : P d' = true) (h : rank P d = rank P d') :
    d = d' := by
  simp only [rank_eq_count] at h
  exact Nat.count_injective (p := fun i => P i = true) hd hd' h

/-- Every ordinal below the number of positions that hold is the rank of one of them. -/
theorem exists_rank_eq {P : Nat → Bool} {k n : Nat} (h : k < rank P n) : ∃ d, d < n ∧ P d = true ∧ rank P d = k := by
  rw [rank_eq_count] at h
  have hcard : ∀ hf : (Set.ofPred fun i => P i = true).Finite, k < hf.toFinset.card :=
    fun hf => h.trans_le (Nat.count_le_card hf n)
  exact ⟨Nat.nth (fun i => P i = true) k, Nat.nth_lt_of_lt_count h, Nat.nth_mem k hcard,
    (rank_eq_count _ _).trans (Nat.count_nth hcard)⟩

namespace Machine

theorem popcountBelow_eq_rank (mask : U32) (n : Nat) : popcountBelow mask n = rank mask.getLsbD n := by
  induction n with
  | zero => rfl
  | succ n ih => rw [popcountBelow, rank_succ, ih]

theorem popcount_eq_rank (mask : U32) : popcount mask = rank mask.getLsbD 32 := popcountBelow_eq_rank mask 32

/-! ### The scan -/

/-- One turn of the loop of R196, whose counter is the rank of its position. -/
theorem scanMask_succ_rank (mask : U32) (k left pos : Nat) :
    scanMask mask k (left + 1) pos (rank mask.getLsbD pos)
      = if mask.getLsbD pos = true ∧ rank mask.getLsbD pos = k then some pos
        else scanMask mask k left (pos + 1) (rank mask.getLsbD (pos + 1)) := by
  rw [scanMask, rank_succ]
  by_cases hset : mask.getLsbD pos = true
  · simp only [hset, if_true, true_and]
  · simp only [hset, if_false, false_and, Bool.false_eq_true, Nat.add_zero]

/-- The scan stops at the set bit of rank `k` among its positions; there is only one. -/
theorem scanMask_eq_some_iff (mask : U32) (k left pos d : Nat) :
    scanMask mask k left pos (rank mask.getLsbD pos) = some d
      ↔ (pos ≤ d ∧ d < pos + left) ∧ mask.getLsbD d = true ∧ rank mask.getLsbD d = k := by
  induction left generalizing pos with
  | zero => simp [scanMask]
  | succ left ih =>
    rw [scanMask_succ_rank]
    by_cases hit : mask.getLsbD pos = true ∧ rank mask.getLsbD pos = k
    · rw [if_pos hit, Option.some.injEq]
      constructor
      · rintro rfl
        exact ⟨by omega, hit⟩
      · rintro ⟨-, hset, hrank⟩
        exact eq_of_rank_eq hit.1 hset (hit.2.trans hrank.symm)
    · rw [if_neg hit, ih]
      refine and_congr_left fun hfound => ?_
      have hne : pos ≠ d := fun heq => hit (heq ▸ hfound)
      omega

theorem kthSetBit_eq_some_iff (mask : U32) (k d : Nat) :
    kthSetBit params mask k = some d ↔ d < 32 ∧ mask.getLsbD d = true ∧ rank mask.getLsbD d = k := by
  simpa [kthSetBit] using scanMask_eq_some_iff mask k 32 0 d

theorem exists_kthSetBit_eq_some {mask : U32} {k : Nat} (h : k < rank mask.getLsbD 32) :
    ∃ d, d < 32 ∧ kthSetBit params mask k = some d ∧ mask.getLsbD d = true ∧ rank mask.getLsbD d = k := by
  obtain ⟨d, hfound⟩ := exists_rank_eq h
  exact ⟨d, hfound.1, (kthSetBit_eq_some_iff mask k d).2 hfound, hfound.2⟩

theorem kthSetBit_eq_none {mask : U32} {k : Nat} (h : rank mask.getLsbD 32 ≤ k) : kthSetBit params mask k = none := by
  refine Option.eq_none_iff_forall_ne_some.2 fun d hd => ?_
  obtain ⟨hlt, hset, hrank⟩ := (kthSetBit_eq_some_iff mask k d).1 hd
  have := rank_lt_rank hset hlt
  omega

end Machine

/-- Settles O36: the scan finds a position exactly when it is the set bit of rank `k`, and the ranks of the set bits are
the numbers below the popcount. -/
theorem kthSetBitIsFound : Obligations.KthSetBitIsFound := by
  unfold Obligations.KthSetBitIsFound
  intro mask k
  rw [popcount_eq_rank]
  exact ⟨exists_kthSetBit_eq_some, kthSetBit_eq_none, rfl⟩

end Sys2Proof
end

section
/-! The doors left to choose among (R212, R214), the choice of a door against the rank of its bit, the layout of the result
(R216), and the statement of `46_trial.md` that follows. -/

namespace Sys2Proof

open Sys2Proof.Machine Sys2Proof.Claims

/-! ### The doors left to choose among -/

/-- Door `d` is one of `n` and neither `a` nor `b`, as R212 and R214 say it. -/
def otherDoor (n a b d : Nat) : Bool := decide (d < n) && d != a && d != b

theorem otherDoor_iff {n a b d : Nat} : otherDoor n a b d = true ↔ d < n ∧ d ≠ a ∧ d ≠ b := by
  simp [otherDoor, and_assoc]

theorem rank_le (P : Nat → Bool) (n : Nat) : rank P n ≤ n := by
  rw [rank_eq_count]
  exact Nat.count_le _

theorem rank_otherDoor_eq_card {n m : Nat} (hnm : n ≤ m) (a b : Nat) :
    rank (otherDoor n a b) m = (((Finset.range n).erase a).erase b).card := by
  rw [rank_eq_count, Nat.count_eq_card_filter_range]
  congr 1
  ext d
  simp only [Finset.mem_filter, Finset.mem_range, Finset.mem_erase, otherDoor_iff]
  omega

theorem rank_otherDoor_of_ne {n m a b : Nat} (hnm : n ≤ m) (ha : a < n) (hb : b < n) (hab : a ≠ b) :
    rank (otherDoor n a b) m = n - 2 := by
  have hb' : b ∈ (Finset.range n).erase a := Finset.mem_erase.2 ⟨hab.symm, Finset.mem_range.2 hb⟩
  rw [rank_otherDoor_eq_card hnm, Finset.card_erase_of_mem hb', Finset.card_erase_of_mem (Finset.mem_range.2 ha),
    Finset.card_range, Nat.sub_sub]

theorem rank_otherDoor_self {n m a : Nat} (hnm : n ≤ m) (ha : a < n) : rank (otherDoor n a a) m = n - 1 := by
  rw [rank_otherDoor_eq_card hnm, Finset.erase_idem, Finset.card_erase_of_mem (Finset.mem_range.2 ha), Finset.card_range]

namespace Machine

/-! ### The door masks -/

theorem allDoors_getLsbD {n : Nat} (hn : n ≤ 32) (d : Nat) : (allDoors n).getLsbD d = decide (d < n) := by
  rw [allDoors, BitVec.getLsbD_ofNat, Nat.testBit_two_pow_sub_one, ← Bool.decide_and]
  exact decide_eq_decide.2 ⟨And.right, fun h => ⟨h.trans_le hn, h⟩⟩

theorem not_doorBit_getLsbD {d : Nat} (hd : d < 32) (i : Nat) : (~~~doorBit i).getLsbD d = (d != i) := by
  rw [BitVec.getLsbD_not, doorBit, ← BitVec.twoPow_eq, BitVec.getLsbD_twoPow, bne, Bool.eq_iff_iff]
  simp only [Bool.and_eq_true, Bool.not_eq_true', Bool.and_eq_false_iff, decide_eq_true_iff, decide_eq_false_iff_not,
    beq_eq_false_iff_ne]
  omega

theorem candidates_getLsbD {n : Nat} (hn : n ≤ 32) (a b : Nat) : (candidates n a b).getLsbD = otherDoor n a b := by
  funext d
  rw [candidates, BitVec.getLsbD_and, BitVec.getLsbD_and, allDoors_getLsbD hn, otherDoor]
  by_cases hd : d < n
  · rw [not_doorBit_getLsbD (hd.trans_le hn), not_doorBit_getLsbD (hd.trans_le hn)]
  · simp [hd]

/-- The doors Monty may reveal are those other than the first pick and the car, which may be one door (R212). -/
theorem eligible_eq_candidates (n car pick1 : Nat) : eligible n car pick1 = candidates n pick1 car := by
  by_cases h : car = pick1
  · rw [eligible, if_pos h, candidates, h, BitVec.and_assoc, BitVec.and_self]
  · rw [eligible, if_neg h, candidates]

theorem eligible_getLsbD {n : Nat} (hn : n ≤ 32) (car pick1 : Nat) :
    (eligible n car pick1).getLsbD = otherDoor n pick1 car := by
  rw [eligible_eq_candidates, candidates_getLsbD hn]

theorem popcount_candidates {n a b : Nat} (hn : n ≤ 32) (ha : a < n) (hb : b < n) (hab : a ≠ b) :
    popcount (candidates n a b) = n - 2 := by
  rw [popcount_eq_rank, candidates_getLsbD hn, rank_otherDoor_of_ne hn ha hb hab]

theorem popcount_eligible {n car pick1 : Nat} (hn : n ≤ 32) (hcar : car < n) (hpick : pick1 < n) :
    popcount (eligible n car pick1) = eligiblePop n car pick1 := by
  rw [popcount_eq_rank, eligible_getLsbD hn]
  by_cases h : car = pick1
  · rw [eligiblePop, if_pos h, h, rank_otherDoor_self hn hpick]
  · rw [eligiblePop, if_neg h, rank_otherDoor_of_ne hn hpick hcar (Ne.symm h)]

/-! ### The choice of a door -/

/-- `Bounded(r)` yields a number below `r`. -/
theorem yields_lt {e : Engine} {r : U32} {b b' : Bank} {v : Nat} (hr : r ≠ 0) (h : Yields e r b v b') : v < r.toNat := by
  obtain ⟨n, -, -, rfl, -⟩ := h
  rw [draw_eq_rand32]
  exact Nat.div_lt_of_lt_mul (Nat.mul_lt_mul_of_pos_right (BitVec.isLt _) (toNat_pos_of_ne_zero hr))

theorem foundDoor_kthSetBit_rank {mask : U32} {door : Nat} (hdoor : mask.getLsbD door = true) (b : Bank) :
    foundDoor (kthSetBit params mask (rank mask.getLsbD door)) b = .done door b := by
  rw [(kthSetBit_eq_some_iff mask _ door).2 ⟨BitVec.lt_of_getLsbD hdoor, hdoor, rfl⟩, foundDoor]

/-- A forced door is the one door of the mask, so it is the set bit of rank 0; a drawn one is the set bit whose rank was
drawn. -/
theorem chooseDoor_of_chooses {e : Engine} {mask : U32} {pop door : Nat} {b b' : Bank} (hpop : popcount mask = pop)
    (h : Chooses e mask.getLsbD pop b door b') : chooseDoor params e mask pop b = .done door b' := by
  obtain ⟨hdoor, hchoice⟩ := h
  rw [popcount_eq_rank] at hpop
  have hrank : rank mask.getLsbD door < pop := hpop ▸ rank_lt_rank hdoor (BitVec.lt_of_getLsbD hdoor)
  have hfound := foundDoor_kthSetBit_rank hdoor
  rcases hchoice with ⟨hone, rfl⟩ | ⟨hmany, hdraw⟩
  · have hzero : rank mask.getLsbD door = 0 := by omega
    rw [hzero] at hfound
    rw [chooseDoor, if_pos ⟨hone, rfl⟩, hfound]
  · have hle : pop ≤ 32 := hpop ▸ rank_le _ 32
    have hne : BitVec.ofNat 32 pop ≠ 0 := fun hzero => by
      have hmod : pop % 2 ^ 32 = 0 := by simpa using congrArg BitVec.toNat hzero
      omega
    obtain ⟨k, hk, hbounded⟩ := bounded_of_yields hne hdraw
    rw [chooseDoor, if_neg fun h => hmany h.1, pickFromMask, hbounded, thenDraw_done, hk, hfound]

/-- The reveal (R212). -/
theorem chooseDoor_eligible {e : Engine} {n car pick1 revealed : Nat} {b b' : Bank} (hn : n ≤ 32) (hcar : car < n)
    (hpick : pick1 < n) (h : Chooses e (otherDoor n pick1 car) (eligiblePop n car pick1) b revealed b') :
    chooseDoor params e (eligible n car pick1) (eligiblePop n car pick1) b = .done revealed b' :=
  chooseDoor_of_chooses (popcount_eligible hn hcar hpick) (eligible_getLsbD hn car pick1 ▸ h)

/-- The final pick after the coin (R213, R214): the first pick, or a choice among the candidates. -/
theorem finalPick_of_coin {e : Engine} {n pick1 revealed coin final : Nat} {b b' : Bank} (hn : n ≤ 32) (hpick : pick1 < n)
    (hrev : otherDoor n pick1 car revealed = true)
    (h : (coin = 1 ∧ final = pick1 ∧ b' = b) ∨ (coin = 0 ∧ Chooses e (otherDoor n pick1 revealed) (n - 2) b final b')) :
    final < n ∧ finalPick params e n pick1 revealed (decide (coin = 1)) b = .done final b' := by
  obtain ⟨hrev, hne, -⟩ := otherDoor_iff.1 hrev
  rcases h with ⟨rfl, rfl, rfl⟩ | ⟨rfl, hfinal⟩
  · exact ⟨hpick, rfl⟩
  · exact ⟨(otherDoor_iff.1 hfinal.1).1, chooseDoor_of_chooses (popcount_candidates hn hpick hrev hne.symm)
      (candidates_getLsbD hn pick1 revealed ▸ hfinal)⟩

/-! ### `TRIAL` -/

theorem coinStays_eq (coin : U32) : coinStays params coin = decide (coin.toNat = 1) := by
  simp [coinStays, params, ← BitVec.toNat_inj, Bool.beq_eq_decide_eq]

theorem outcomeCode_toNat (stay : Bool) (final car : Nat) :
    (outcomeCode stay final car).toNat = (if stay then 2 else 0) + (if final = car then 0 else 1) := by
  by_cases h : final = car <;> cases stay <;> simp [outcomeCode, h]

/-- The result word as a number (R216). -/
theorem trialResult_eq {car pick1 revealed final : Nat} (hcar : car < 32) (hpick : pick1 < 32) (hrev : revealed < 32)
    (hfinal : final < 32) (stay : Bool) :
    trialResult car pick1 revealed final stay = BitVec.ofNat 64 ((if stay then 2 else 0) + (if final = car then 0 else 1)
      + car * 2 ^ 8 + pick1 * 2 ^ 16 + revealed * 2 ^ 24 + final * 2 ^ 32) := by
  have hout := (outcomeCode stay final car).isLt
  rw [outcomeCode_toNat] at hout
  apply BitVec.eq_of_toNat_eq
  simp only [trialResult, toNat_append_eq_add, outcomeCode_toNat, BitVec.toNat_ofNat]
  omega

/-- The five choices of a trial, one after another (R210). -/
theorem trial_of_choices {e : Engine} {doors car pick1 coin : U32} {revealed final : Nat} {b b1 b2 b3 b4 b5 : Bank}
    (hcar : bounded params e doors b = .done car b1) (hpick : bounded params e doors b1 = .done pick1 b2)
    (hreveal : chooseDoor params e (eligible doors.toNat car.toNat pick1.toNat)
      (eligiblePop doors.toNat car.toNat pick1.toNat) b2 = .done revealed b3)
    (hcoin : bounded params e 2 b3 = .done coin b4)
    (hfinal : finalPick params e doors.toNat pick1.toNat revealed (coinStays params coin) b4 = .done final b5) :
    trial params e doors b = .done (trialResult car.toNat pick1.toNat revealed final (coinStays params coin)) b5 := by
  simp only [trial, hcar, hpick, hreveal, hcoin, hfinal, thenDraw_done]

theorem exec_trial_of_ready {s : State} (he : s.err = false) (hc : s.cfg = true) :
    exec .trial s = finish s (trial params s.eng s.ndoors s.bank) :=
  drawing_ready he hc rfl

end Machine

/-- Settles O40: each draw and each choice is the one the model makes at its place, a forced choice being the one door of
its mask; `TRIAL` needs an engine and has format Z. -/
theorem trialPlaysOneGame : Obligations.TrialPlaysOneGame := by
  unfold Obligations.TrialPlaysOneGame
  refine ⟨?_, refusedUnready_of_needsEngine rfl, illegalUnless_of_formatZ (op := 0x40) (by decide)⟩
  rintro s car pick1 revealed coin final b1 b2 b3 b4 b5 ⟨he, hc⟩ hmin hmax hcar hpick hreveal hcoin hfinal
  have hdoors : s.ndoors ≠ 0 := fun hzero => by simp [hzero] at hmin
  have hcarlt := yields_lt hdoors hcar
  have hpicklt := yields_lt hdoors hpick
  have hrevlt := (otherDoor_iff.1 hreveal.1).1
  obtain ⟨hfinallt, hfinalDone⟩ := finalPick_of_coin hmax hpicklt hreveal.1 hfinal
  have hrevealDone := chooseDoor_eligible hmax hcarlt hpicklt hreveal
  obtain ⟨_, rfl, hcarDone⟩ := bounded_of_yields hdoors hcar
  obtain ⟨_, rfl, hpickDone⟩ := bounded_of_yields hdoors hpick
  obtain ⟨coin, rfl, hcoinDone⟩ := bounded_of_yields (by decide) hcoin
  rw [← coinStays_eq] at hfinalDone
  rw [exec_trial_of_ready he hc, trial_of_choices hcarDone hpickDone hrevealDone hcoinDone hfinalDone, finish_done,
    coinStays_eq, trialResult_eq (by omega) (by omega) (by omega) (by omega)]
  simp only [decide_eq_true_iff]
  rfl

end Sys2Proof
end

section
/-! What discards a command (R254), `CONFIG` and `ERRCLR` case by case (R230, R234), what leaves the configuration as it is
(R233), and the statements of `47_config.md` that follow. -/

namespace Sys2Proof

open Sys2Proof.Machine Sys2Proof.Safety Sys2Proof.Claims

namespace Machine

/-! ### A pending error and `ERRCLR` -/

theorem exec_config_pending {n : U32} {id : BitVec 8} {s : State} (he : s.err = true) :
    exec (.config n id) s = .next s :=
  unlessPending_pending _ he

/-- `ERRCLR` is the one command that a pending error does not discard (R234). -/
theorem exec_discarded {i : Instr} {s : State} (hi : i ≠ .errclr) (he : s.err = true) : exec i s = .next s := by
  cases i with
  | errclr => exact absurd rfl hi
  | config n id => exact exec_config_pending he
  | rotl sub | rotr sub => exact unlessPending_pending _ he
  | seed | next | rand32 | rand52 | frand | bounded | sample | sampleC | pick | pickC | trial => exact exec_pending rfl he

/-- The row of `ERRCLR` has a full mask, so one word selects it (R83). -/
theorem eq_errclr_word_of_decode {w : Word} (h : decode w = .ok .errclr) : w = 0x0000000000000003 := by
  have hrow := row_of_decode (r := ⟨0x0000000000000003, 0xFFFFFFFFFFFFFFFF, fun _ _ => .errclr⟩) (by simp [rows]) h
  exact (BitVec.and_allOnes (x := w)).symm.trans hrow

theorem runCommand_discarded {w : Word} {s : State} (hw : w ≠ 0x0000000000000003) (he : s.err = true) :
    runCommand w s = .next s := by
  cases hdec : decode w with
  | ok i =>
    have hi : i ≠ .errclr := by
      rintro rfl
      exact hw (eq_errclr_word_of_decode hdec)
    rw [runCommand_of_decode s hdec, exec_discarded hi he]
  | error e =>
    rw [runCommand, hdec]
    exact unlessPending_pending _ he

theorem runCommand_errclr (s : State) : runCommand 0x0000000000000003 s = .next (clearError s) := rfl

/-! ### The cases of `CONFIG` -/

theorem doorsOk_iff {n : U32} : doorsOk params n = true ↔ 3 ≤ n.toNat ∧ n.toNat ≤ 32 := by
  rw [doorsOk, params_maskW, Bool.and_eq_true, decide_eq_true_iff, decide_eq_true_iff]

theorem engineOfId_of_code {id : BitVec 8} {e : Engine} (h : id.toNat = e.code.toNat) : engineOfId id = some e := by
  cases e <;> simp [engineOfId, h, Engine.code]

theorem exec_config_locked {n : U32} {id : BitVec 8} {s : State} (he : s.err = false) (hc : s.cfg = true) :
    exec (.config n id) s = .next (raise .locked (encode (.config n id)) s) := by
  simp [exec, execConfig, unlessPending, he, hc]

theorem exec_config_badDoors {n : U32} {id : BitVec 8} {s : State} (he : s.err = false) (hc : s.cfg = false)
    (hn : doorsOk params n = false) :
    exec (.config n id) s = .next (raise .configDoors (encode (.config n id)) s) := by
  simp [exec, execConfig, unlessPending, he, hc, hn]

/-- The seed map of MCG128 is the zero extension of the seed to `{S[1], S[0]}` (D12). -/
theorem seedInit_mcg (seed : Word) (b : Bank) :
    seedInit params .mcg128 seed b = { s0 := seed, s1 := 0, s2 := b.s2, s3 := b.s3 } := by
  have hlow : ((0 : Word) ++ seed).extractLsb' 0 64 = seed := BitVec.extractLsb'_append_eq_right
  have hhigh : ((0 : Word) ++ seed).extractLsb' 64 64 = 0 := BitVec.extractLsb'_append_eq_left
  simp only [seedInit, params, Bank.setMcg, hlow, hhigh]

theorem seedBank_eq_seeded (e : Engine) (seed : Word) (b : Bank) : seedBank params e seed b = seeded e seed b := by
  cases e with
  | mcg128 => rw [seedBank, seedInit_mcg]; rfl
  | sfcCounter | sfcPcgCounter => rfl

theorem configure_eq (n : U32) (e : Engine) (s : State) : configure params n e s =
    { s with eng := e, ndoors := n, cfg := true, bank := seeded e 0xC68FA87D83F72455 s.bank } := by
  rw [configure, seedBank_eq_seeded]
  rfl

/-! ### What leaves the configuration as it is -/

/-- `CONFIG` is the only command that writes `ENG`, `NDOORS` and `CFG`, and it is refused while `CFG = 1`. -/
theorem exec_keeps_config {i : Instr} {s t : State} (h : exec i s = .next t) (hc : s.cfg = true) :
    t.cfg = true ∧ t.eng = s.eng ∧ t.ndoors = s.ndoors := by
  cases exec_effect h with
  | configured he hunlocked hn hid => cases hunlocked.symm.trans hc
  | discarded | raised | cleared | seeded | rotated | drew => exact ⟨hc, rfl, rfl⟩

theorem runCommand_keeps_config {w : Word} {s t : State} (h : runCommand w s = .next t) (hc : s.cfg = true) :
    t.cfg = true ∧ t.eng = s.eng ∧ t.ndoors = s.ndoors := by
  rcases runCommand_cases h with ⟨i, -, hi⟩ | ⟨e, -, ⟨-, rfl⟩ | ⟨-, rfl⟩⟩
  · exact exec_keeps_config hi hc
  · exact ⟨hc, rfl, rfl⟩
  · exact ⟨hc, rfl, rfl⟩

theorem writeReg_keeps_config {c : Config} {idx : RegIndex} {v : Word} {s t : State} (h : writeReg c idx v s = some t) :
    t.cfg = s.cfg ∧ t.eng = s.eng ∧ t.ndoors = s.ndoors := by
  rcases writeReg_cases h with rfl | rfl | rfl <;> exact ⟨rfl, rfl, rfl⟩

/-- A step that resets nothing keeps the configuration: the block is not reset by an operation of the queue, and the command
it runs is not abandoned (R280). -/
theorem step_keeps_config {s t : State} (h : step s = .next t) (hc : s.cfg = true) (hreset : s.hostOps.head? ≠ some .reset)
    (hends : ∀ (w : Word) (rest : List HostOp), s.hostOps = .wr 0 w :: .reset :: rest →
      runCommand w (s.withOps (.reset :: rest)) ≠ .fault .neverCompletes) :
    t.cfg = true ∧ t.eng = s.eng ∧ t.ndoors = s.ndoors := by
  rcases step_cases h with ⟨-, rfl⟩ | ⟨idx, rest, v, -, -, rfl⟩ | ⟨idx, v, rest, -, -, hw⟩ | ⟨w, rest, hops, hrun⟩ |
    ⟨rest, hops, -⟩
  · exact ⟨hc, rfl, rfl⟩
  · exact ⟨hc, rfl, rfl⟩
  · obtain ⟨hcfg, heng, hdoors⟩ := writeReg_keeps_config hw
    exact ⟨hcfg.trans hc, heng, hdoors⟩
  · rcases abandonedByReset_cases hrun with hnext | ⟨hstuck, rest', hrest, -⟩
    · exact runCommand_keeps_config (s := s.withOps rest) hnext hc
    · obtain rfl : rest = .reset :: rest' := hrest
      exact absurd hstuck (hends w rest' hops)
  · simp [hops] at hreset

/-! ### A `CONFIG` that fails -/

theorem exec_config_refused {n : U32} {id : BitVec 8} {s t : State} (he : s.err = false)
    (h : exec (.config n id) s = .next t) (ht : t.err = true) :
    ∃ e, t = raise e (encode (.config n id)) s := by
  cases exec_effect h with
  | raised => exact ⟨_, rfl⟩
  | discarded _ hpending => cases he.symm.trans hpending
  | configured => cases he.symm.trans ht
  | rotated _ _ hw => cases hw
  | drew _ _ hi => cases hi

/-- `ERRCLR` undoes an error entry: nothing but the three error registers was written (R253, R255). -/
theorem clearError_raise {s : State} (he : s.err = false) (e : Error) (cw : Word) :
    clearError (raise e cw s) = { s with errcode := 0, errcmd := 0 } := by
  simp [clearError, raise, he]

end Machine

/-! ### The illegal words of format G -/

/-- A word with the opcode of `CONFIG` that is none of its words has `c` or a reserved field not zero. -/
theorem decode_error_of_config_op {w : Word} (hop : opField w = 0x01) (hw : ∀ e n, w ≠ commandWord 0x01 0 e n) :
    ∃ e, decode w = .error e := by
  refine decode_error_of_decodeOp fun hrsv => ⟨.unusedField, ?_⟩
  have hformat : decodeOp w = formatG w .config := by simp [decodeOp, hop]
  refine hformat.trans (if_neg fun hc => ?_)
  have hfields := word_of_fields w hrsv.1 hrsv.2
  rw [hop, hc] at hfields
  exact hw _ _ hfields

theorem illegalUnless_config :
    IllegalUnless 0x01 (fun w => ∃ n e, e < 256 ∧ w = BitVec.ofNat 64 (0x01 + e * 2 ^ 16 + n * 2 ^ 32)) := by
  rintro s w rest hops he hop hw
  have hnone : ∀ e n, w ≠ commandWord 0x01 0 e n := by
    rintro e n rfl
    refine hw ⟨n.toNat, e.toNat, e.isLt, ?_⟩
    rw [config_word_eq e.isLt, BitVec.ofNat_toNat, BitVec.setWidth_eq, BitVec.ofNat_toNat, BitVec.setWidth_eq]
  obtain ⟨r, hdec⟩ := decode_error_of_config_op hop hnone
  exact step_of_runCommand hops (runCommand_of_error hdec he)

/-- Settles O8: one word decodes to `ERRCLR`, the one command that a pending error does not discard; `ERRCLR` has
format Z. -/
theorem errclrReturnsFromTheErrorState : Obligations.ErrclrReturnsFromTheErrorState := by
  unfold Obligations.ErrclrReturnsFromTheErrorState
  refine ⟨fun s => rfl, fun s rest hops => step_of_runCommand hops (runCommand_errclr _), fun s w rest hops hw => ⟨?_, ?_⟩⟩
  · exact fun he => step_of_runCommand hops (runCommand_discarded hw he)
  · exact fun he hop => illegalUnless_of_formatZ (op := 0x03) (by decide) s w rest hops he hop hw

/-- Settles O44: the checks of `CONFIG` in the order of R252, then the selection and the seeding; `CONFIG` has format G. -/
theorem configSelectsAndSeeds : Obligations.ConfigSelectsAndSeeds := by
  unfold Obligations.ConfigSelectsAndSeeds
  refine ⟨fun s n id he => ⟨?locked, ?doors, ?rng, ?accepted⟩, fun s n id he => exec_config_pending he, rfl, rfl, rfl,
    illegalUnless_config⟩
  case locked => exact exec_config_locked he
  case doors =>
    intro hc hn
    refine exec_config_badDoors he hc (Bool.eq_false_iff.2 fun hok => ?_)
    have hrange := doorsOk_iff.1 hok
    omega
  case rng => exact fun hc hmin hmax hid => exec_config_badRng he hc (doorsOk_iff.2 ⟨hmin, hmax⟩) (engineOfId_eq_none hid)
  case accepted =>
    intro hc hmin hmax e hid
    rw [← configure_eq]
    exact exec_config_accepted he hc (doorsOk_iff.2 ⟨hmin, hmax⟩) (engineOfId_of_code hid)

/-- Settles O45: no host access and no command but `CONFIG` writes the configuration; `CONFIG` is refused while `CFG = 1`,
and a refusal writes the error registers only. -/
theorem configurationIsFixedUntilReset : Obligations.ConfigurationIsFixedUntilReset := by
  unfold Obligations.ConfigurationIsFixedUntilReset
  refine ⟨fun s t => step_keeps_config, fun s n id ⟨he, hc⟩ => exec_config_locked he hc, ?_⟩
  intro s t n id he hc h ht
  obtain ⟨e, rfl⟩ := exec_config_refused he h ht
  exact ⟨hc, congrArg Host.Outcome.next (clearError_raise he e _)⟩

end Sys2Proof
end

section
/-! The round trip between a word and its command (R80 to R83), what a write to `CMD` does with it (R52, R280), and the
statements of `30_encoding.md` that follow. -/

namespace Sys2Proof

open Sys2Proof.Machine Sys2Proof.Claims

/-! ### From a command to its word and back -/

theorem decode_commandWord (op : BitVec 8) (c : BitVec 1) (sub : BitVec 8) (imm : U32) :
    decode (commandWord op c sub imm) = decodeOp (commandWord op c sub imm) :=
  decode_of_reservedZero ⟨rsv1Field_commandWord .., rsv2Field_commandWord ..⟩

/-- The format of a row admits the fields that `encode` has put in the word. -/
theorem decode_encode {i : Instr} (hi : i.wellFormed = true) : decode (encode i) = .ok i := by
  cases i with
  | config n id => exact decode_config_word n id
  | rotl sub | rotr sub =>
    have hsub : sub.toNat < 64 := of_decide_eq_true hi
    simp [encode, decode_commandWord, decodeOp, formatR, opField_commandWord, cField_commandWord, subField_commandWord,
      immField_commandWord, hsub]
  | bounded r | sample r | sampleC r | pick r | pickC r =>
    simp [encode, decode_commandWord, decodeOp, formatI, formatIC, opField_commandWord, cField_commandWord,
      subField_commandWord, immField_commandWord]
  | seed | errclr | next | rand32 | rand52 | frand | trial => rfl

/-! ### From a word to its command and back -/

/-- The counterpart of `decode_of_selects`: a word that selects a row is put together again from its fields. -/
theorem encode_of_selects {w : Word} {op : BitVec 8} {sel fits : Prop} {i : Instr}
    (hsel : sel ↔ ReservedZero w ∧ opField w = op ∧ fits)
    (henc : fits → encode i = commandWord op (cField w) (subField w) (immField w) ∧ i.wellFormed = true) (h : sel) :
    encode i = w ∧ i.wellFormed = true := by
  obtain ⟨hrsv, hop, hfits⟩ := hsel.1 h
  obtain ⟨hword, hwf⟩ := henc hfits
  exact ⟨(hop ▸ hword).trans (word_of_fields w hrsv.1 hrsv.2).symm, hwf⟩

/-- A word that selects a row is the word of the row's command. -/
theorem encode_of_row (w : Word) : ∀ r ∈ rows, w &&& r.mask = r.pattern →
    encode (r.instr (immField w) (subField w)) = w ∧ (r.instr (immField w) (subField w)).wellFormed = true := by
  simp only [rows, List.forall_mem_cons, List.not_mem_nil, false_imp_iff, implies_true, and_true]
  refine ⟨encode_of_selects (and_maskG_iff (op := 0x01)) ?_, encode_of_selects (and_maskZ_iff (op := 0x02)) ?_,
    encode_of_selects (and_maskZ_iff (op := 0x03)) ?_, encode_of_selects (and_maskR_iff (op := 0x10)) ?_,
    encode_of_selects (and_maskR_iff (op := 0x11)) ?_, encode_of_selects (and_maskZ_iff (op := 0x20)) ?_,
    encode_of_selects (and_maskZ_iff (op := 0x21)) ?_, encode_of_selects (and_maskZ_iff (op := 0x22)) ?_,
    encode_of_selects (and_maskZ_iff (op := 0x23)) ?_, encode_of_selects (and_maskI_iff (op := 0x30) (c := 0)) ?_,
    encode_of_selects (and_maskI_iff (op := 0x31) (c := 0)) ?_, encode_of_selects (and_maskI_iff (op := 0x31) (c := 1)) ?_,
    encode_of_selects (and_maskI_iff (op := 0x32) (c := 0)) ?_, encode_of_selects (and_maskI_iff (op := 0x32) (c := 1)) ?_,
    encode_of_selects (and_maskZ_iff (op := 0x40)) ?_⟩
  all_goals
    intro hfits
    simp [encode, Instr.wellFormed, hfits]

/-- A decoded word selects some row, and that row's command is the one decoded. -/
theorem encode_of_decode {w : Word} {i : Instr} (h : decode w = .ok i) : encode i = w ∧ i.wellFormed = true := by
  by_cases hrow : ∀ r ∈ rows, w &&& r.mask ≠ r.pattern
  · obtain ⟨e, he⟩ := decode_error_of_no_row hrow
    cases h.symm.trans he
  · push Not at hrow
    obtain ⟨r, hr, hsel⟩ := hrow
    obtain rfl : i = _ := Except.ok.inj (h.symm.trans (decode_of_row w r hr hsel))
    exact encode_of_row w r hr hsel

/-! ### A write to `CMD` -/

namespace Machine

theorem step_of_cmd {s : State} {w : Word} {rest : List HostOp} (hops : s.hostOps = .wr 0 w :: rest) :
    step s = abandonedByReset (s.withOps rest) (runCommand w (s.withOps rest)) := by
  rw [step_of_hostOps hops, perform, hostWrites, if_pos rfl]

/-- What a command ends in stands, unless it never ends and a reset comes next (R280; log 12). -/
theorem abandonedByReset_eq (s : State) (o : Result) : abandonedByReset s o = o
    ∨ (o = .fault .neverCompletes
      ∧ ∃ rest, s.hostOps = .reset :: rest ∧ abandonedByReset s o = .next (resetBlock (s.withOps rest))) := by
  unfold abandonedByReset
  split
  case h_1 =>
    split
    case h_1 rest hops => exact .inr ⟨rfl, rest, hops, rfl⟩
    case h_2 => exact .inl rfl
  case h_2 => exact .inl rfl

/-- A command is abandoned only to a reset that comes next (R280; log 12). -/
theorem abandonedByReset_of_head {s : State} (o : Result) (h : s.hostOps.head? ≠ some .reset) :
    abandonedByReset s o = o := by
  rcases abandonedByReset_eq s o with hstands | ⟨-, rest, hops, -⟩
  · exact hstands
  · simp [hops] at h

theorem step_of_cmd_of_head {s : State} {w : Word} {rest : List HostOp} (hops : s.hostOps = .wr 0 w :: rest)
    (hrest : rest.head? ≠ some .reset) : step s = runCommand w (s.withOps rest) := by
  rw [step_of_cmd hops, abandonedByReset_of_head _ hrest]

end Machine

/-- Settles O1, command by command: the fields of the command's word read back as its operands. -/
theorem decodeEncodeRoundTrip : Obligations.DecodeEncodeRoundTrip := by
  unfold Obligations.DecodeEncodeRoundTrip
  exact fun i hi => decode_encode hi

/-- Settles O2, row by row: a word that selects a row is made of the row's opcode and its own operand fields. -/
theorem decodedWordIsTheEncoding : Obligations.DecodedWordIsTheEncoding := by
  unfold Obligations.DecodedWordIsTheEncoding
  exact fun w i h => encode_of_decode h

/-- Settles O4: each word is the word of its command, which decodes to the command. -/
theorem decodesWrittenOutWords : Obligations.DecodesWrittenOutWords := by
  unfold Obligations.DecodesWrittenOutWords
  exact ⟨decode_encode (i := .config 3 1) rfl, decode_encode (i := .seed) rfl, decode_encode (i := .errclr) rfl,
    decode_encode (i := .rotl 24) rfl, decode_encode (i := .rotr 63) rfl, decode_encode (i := .next) rfl,
    decode_encode (i := .rand32) rfl, decode_encode (i := .rand52) rfl, decode_encode (i := .frand) rfl,
    decode_encode (i := .bounded 0xC0000000) rfl, decode_encode (i := .sample 2) rfl, decode_encode (i := .sampleC 4) rfl,
    decode_encode (i := .pick 3) rfl, decode_encode (i := .pickC 3) rfl, decode_encode (i := .trial) rfl⟩

/-- Settles O5: a next state is never abandoned, and nothing is abandoned unless a reset comes next. -/
theorem stepRunsTheDecodedCommand : Obligations.StepRunsTheDecodedCommand := by
  unfold Obligations.StepRunsTheDecodedCommand
  intro s w i rest hops hdec
  have hrun : runCommand w (s.withOps rest) = exec i (popped s rest) := runCommand_of_decode _ hdec
  exact ⟨fun t ht => step_of_runCommand hops (hrun.trans ht), fun hrest => (step_of_cmd_of_head hops hrest).trans hrun⟩

end Sys2Proof
end

section
/-! The register map index by index (R51, R57), the end of an idle step and of a reset (R60, R280), and the statements of
`20_memory.md` and `70_reset_and_hazards.md` that follow. -/

namespace Sys2Proof

open Sys2Proof.Machine Sys2Proof.Claims

namespace Machine

/-! ### The indices from `0x06` on -/

theorem cdfIndex_of_toNat {idx : RegIndex} {i : Fin 64} (h : idx.toNat = 0x40 + i.val) : cdfIndex idx = i := by
  apply Fin.ext
  simp [cdfIndex, h]

theorem isCdfIndex_iff {idx : RegIndex} : isCdfIndex params idx = true ↔ 0x40 ≤ idx.toNat := by
  have hlt := idx.isLt
  have hdepth : params.cdfDepth = 64 := rfl
  rw [isCdfIndex, hdepth, Bool.and_eq_true, decide_eq_true_iff, decide_eq_true_iff]
  omega

/-- An index from `0x40` on names one entry of the table. -/
theorem exists_cdf_of_isCdfIndex {idx : RegIndex} (h : isCdfIndex params idx = true) :
    ∃ j : Fin 64, idx.toNat = 0x40 + j.val := by
  have hlo := isCdfIndex_iff.1 h
  have hlt := idx.isLt
  exact ⟨⟨idx.toNat - 0x40, by omega⟩, by simp; omega⟩

theorem readReg_upper {idx : RegIndex} (s : State) (h : 0x06 ≤ idx.toNat) : readReg params idx s
    = if isCdfIndex params idx then some (s.cdf.get (cdfIndex idx)).val else none := by
  unfold readReg
  split
  case h_7 => rfl
  all_goals omega

theorem writeReg_upper {idx : RegIndex} (v : Word) (s : State) (h : 0x06 ≤ idx.toNat) : writeReg params idx v s
    = if isCdfIndex params idx then some (s.setCdf (cdfIndex idx) v) else none := by
  unfold writeReg
  split
  case h_6 => rfl
  all_goals omega

theorem not_isCdfIndex_of_le {idx : RegIndex} (h : idx.toNat ≤ 0x3F) : ¬ isCdfIndex params idx = true := by
  rw [isCdfIndex_iff]
  omega

theorem readReg_reserved {idx : RegIndex} (s : State) (hlo : 0x06 ≤ idx.toNat) (hhi : idx.toNat ≤ 0x3F) :
    readReg params idx s = none := by
  rw [readReg_upper s hlo, if_neg (not_isCdfIndex_of_le hhi)]

theorem writeReg_reserved {idx : RegIndex} (v : Word) (s : State) (hlo : 0x06 ≤ idx.toNat) (hhi : idx.toNat ≤ 0x3F) :
    writeReg params idx v s = none := by
  rw [writeReg_upper v s hlo, if_neg (not_isCdfIndex_of_le hhi)]

theorem readReg_cdf {idx : RegIndex} {i : Fin 64} (s : State) (h : idx.toNat = 0x40 + i.val) :
    readReg params idx s = some (s.cdf.get i).val := by
  rw [readReg_upper s (by omega), if_pos (isCdfIndex_iff.2 (by omega)), cdfIndex_of_toNat h]

theorem writeReg_cdf {idx : RegIndex} {i : Fin 64} (v : Word) (s : State) (h : idx.toNat = 0x40 + i.val) :
    writeReg params idx v s = some (s.setCdf i v) := by
  rw [writeReg_upper v s (by omega), if_pos (isCdfIndex_iff.2 (by omega)), cdfIndex_of_toNat h]

/-! ### The registers below `0x06` -/

theorem readReg_ndoors {idx : RegIndex} (s : State) (h : idx.toNat = 0x05) :
    readReg params idx s = some (if s.cfg = true then BitVec.ofNat 64 s.ndoors.toNat else 0) := by
  rw [BitVec.ofNat_toNat]
  simp [readReg, h]

theorem writeReg_ignored {idx : RegIndex} (v : Word) (s : State)
    (h : idx.toNat = 1 ∨ idx.toNat = 3 ∨ idx.toNat = 4 ∨ idx.toNat = 5) : writeReg params idx v s = some s := by
  rcases h with h | h | h | h <;> simp [writeReg, h]

theorem writeReg_arg0 {idx : RegIndex} (v : Word) (s : State) (h : idx.toNat = 2) :
    writeReg params idx v s = some (s.setArg0 v) := by
  simp [writeReg, h]

/-! ### The step of an access -/

theorem step_of_rd_value {s : State} {idx : RegIndex} {rest : List HostOp} {v : Word} (hops : s.hostOps = .rd idx :: rest)
    (hv : readReg params idx s = some v) : step s = .next { popped s rest with hostRead := some v } :=
  (step_of_rd hops).2 ⟨v, hv, rfl⟩

theorem step_of_rd_reserved {s : State} {idx : RegIndex} {rest : List HostOp} (hops : s.hostOps = .rd idx :: rest)
    (hv : readReg params idx s = none) : step s = .refused (.reservedIndex idx) := by
  rw [step_of_hostOps hops, perform, hostReads, readReg_withOps, hv]

theorem ne_zero_of_toNat_pos {idx : RegIndex} (h : 0 < idx.toNat) : idx ≠ 0 := by
  rintro rfl
  exact absurd h (by decide)

theorem step_of_wr_value {s t : State} {idx : RegIndex} {rest : List HostOp} {v : Word} (hidx : 0 < idx.toNat)
    (hops : s.hostOps = .wr idx v :: rest) (hw : writeReg params idx v (s.withOps rest) = some t) : step s = .next t :=
  (step_of_wr (ne_zero_of_toNat_pos hidx) hops).2 hw

theorem step_of_wr_reserved {s : State} {idx : RegIndex} {rest : List HostOp} {v : Word} (hidx : 0 < idx.toNat)
    (hops : s.hostOps = .wr idx v :: rest) (hw : writeReg params idx v (s.withOps rest) = none) :
    step s = .refused (.reservedIndex idx) := by
  rw [step_of_hostOps hops, perform, hostWrites, if_neg (ne_zero_of_toNat_pos hidx), hw]

/-- A write to `CMD` is its command, unless the command is abandoned (R280; log 12). -/
theorem step_of_cmd_cases {s : State} {w : Word} {rest : List HostOp} (hops : s.hostOps = .wr 0 w :: rest) :
    step s = runCommand w (s.withOps rest)
    ∨ (runCommand w (s.withOps rest) = .fault .neverCompletes
      ∧ ∃ rest', rest = .reset :: rest' ∧ step s = .next { State.reset with hostOps := rest' }) := by
  rw [step_of_cmd hops]
  exact abandonedByReset_eq (s.withOps rest) _

theorem step_of_reset {s : State} {rest : List HostOp} (hops : s.hostOps = .reset :: rest) :
    step s = .next { State.reset with hostOps := rest } :=
  step_of_hostOps hops

theorem step_of_idle {s : State} (hops : s.hostOps = []) : step s = .next s := by
  rw [step, performNext, hops]

end Machine

/-- Settles O50, index by index: each register's read and write by its row of the map, the indices between `NDOORS` and the
table by the last row. -/
theorem registerMapReadsAndWrites : Obligations.RegisterMapReadsAndWrites := by
  unfold Obligations.RegisterMapReadsAndWrites
  refine fun s rest idx => ⟨fun hops => ⟨fun h => ?cmd, fun h => ?status, fun h => ?arg0, fun h => ?res, fun h => ?errcmd,
    fun h => ?ndoors, fun hlo hhi => ?reserved, fun i h => ?table⟩, fun v hops => ⟨fun h => ?runs, fun h => ?ignored,
    fun h => ?setArg0, fun hlo hhi => ?refused, fun i h => ?setTable⟩⟩
  case cmd | status | arg0 | res | errcmd => exact step_of_rd_value hops (by simp [readReg, h])
  case ndoors => exact step_of_rd_value hops (readReg_ndoors s h)
  case reserved => exact step_of_rd_reserved hops (readReg_reserved s hlo hhi)
  case table => exact step_of_rd_value hops (readReg_cdf s h)
  case runs =>
    obtain rfl : idx = 0 := BitVec.eq_of_toNat_eq h
    exact step_of_cmd_cases hops
  case ignored => exact step_of_wr_value (by omega) hops (writeReg_ignored v _ h)
  case setArg0 => exact step_of_wr_value (by omega) hops (writeReg_arg0 v _ h)
  case refused => exact step_of_wr_reserved (by omega) hops (writeReg_reserved v _ hlo hhi)
  case setTable => exact step_of_wr_value (by omega) hops (writeReg_cdf v _ h)

/-- Settles O54: a reset is performed as an operation of the queue, and the queue is all that it keeps. -/
theorem resetKeepsNothing : Obligations.ResetKeepsNothing := by
  unfold Obligations.ResetKeepsNothing
  exact fun s rest hops => step_of_reset hops

/-- Settles O55: an empty queue has no operation to perform. -/
theorem idleBlockIsStill : Obligations.IdleBlockIsStill := by
  unfold Obligations.IdleBlockIsStill
  exact fun s hops => step_of_idle hops

end Sys2Proof
end

section
/-! The error entry (R250 to R253), the pending error (R254, R256), the invariant of the state (R25, R28), and the
statements of `60_exceptions.md` and `10_state.md` that follow. -/

namespace Sys2Proof

open Sys2Proof.Machine Sys2Proof.Safety Sys2Proof.Claims

namespace Machine

/-! ### The recorded error -/

/-- The code of an error that a decoded command raises is one that R250 and R251 give its word. -/
theorem errorFits_of_raises {s : State} {i : Instr} {e : Error} {w : Word} (hdec : decode w = .ok i) (h : Raises s i e) :
    errorFits s.cfg (errorCode e) w = true := by
  cases h with
  | locked hc => simp [errorFits, errorCode, hdec, hc]
  | configDoors hc hn =>
    rw [Bool.eq_false_iff, ne_eq, doorsOk_iff, not_and_or, not_le, not_le] at hn
    simpa [errorFits, errorCode, hdec, hc] using hn
  | @configRng n id hc hn hid =>
    obtain ⟨hmin, hmax⟩ := doorsOk_iff.1 hn
    have hrng : 2 < id.toNat := by
      by_contra hle
      obtain ⟨e, he⟩ := engineOfId_of_le_two (not_lt.1 hle)
      cases hid.symm.trans he
    simp [errorFits, errorCode, hdec, hc, hmin, hmax, hrng]
  | notReady hi hc => simp [errorFits, errorCode, hdec, hc, hi]
  | range hi hc hr => simp [errorFits, errorCode, hdec, hc, hr]

theorem errorFits_illegal {w : Word} {r : Reject} (cfg : Bool) (hdec : decode w = .error r) :
    errorFits cfg (errorCode .illegal) w = true := by
  simp [errorFits, errorCode, hdec]

/-- Every next state of a word written to `CMD`: an error recorded for this very word, or the effect of a command that
raises none. -/
theorem runCommand_effect {w : Word} {s t : State} (h : runCommand w s = .next t) :
    (∃ e, t = raise e w s ∧ s.err = false ∧ errorFits s.cfg (errorCode e) w = true)
    ∨ (s.err = true ∧ t = s)
    ∨ (∃ i, Effect s i t ∧ t.err = false) := by
  rcases runCommand_cases h with ⟨i, hdec, hi⟩ | ⟨r, hdec, ⟨he, rfl⟩ | ⟨he, rfl⟩⟩
  · cases exec_effect hi with
    | discarded _ he => exact .inr (.inl ⟨he, rfl⟩)
    | raised he hr =>
      rw [(encode_of_decode hdec).1]
      exact .inl ⟨_, rfl, he, errorFits_of_raises hdec hr⟩
    | cleared => exact .inr (.inr ⟨_, exec_effect hi, rfl⟩)
    | configured he | seeded he | rotated _ _ _ he | drew _ _ _ _ he => exact .inr (.inr ⟨_, exec_effect hi, he⟩)
  · exact .inr (.inl ⟨he, rfl⟩)
  · exact .inl ⟨_, rfl, he, errorFits_illegal _ hdec⟩

/-! ### While an error is pending -/

/-- While an error is pending a word is `ERRCLR`'s or it is discarded, so it ends at once (R254). -/
theorem runCommand_pending {w : Word} {s : State} (he : s.err = true) :
    runCommand w s = .next s ∨ (w = 0x0000000000000003 ∧ runCommand w s = .next (clearError s)) := by
  by_cases hw : w = 0x0000000000000003
  · exact .inr ⟨hw, hw ▸ runCommand_errclr s⟩
  · exact .inl (runCommand_discarded hw he)

theorem writeReg_keeps_error {c : Config} {idx : RegIndex} {v : Word} {s t : State} (h : writeReg c idx v s = some t) :
    t.err = s.err ∧ t.errcode = s.errcode ∧ t.errcmd = s.errcmd := by
  rcases writeReg_cases h with rfl | rfl | rfl <;> exact ⟨rfl, rfl, rfl⟩

/-! ### The invariant -/

theorem legal_iff (s : State) : legal s = true
    ↔ (s.err = true → errorFits s.cfg s.errcode s.errcmd = true) ∧ (s.err = false → s.errcode = 0 ∧ s.errcmd = 0)
      ∧ (s.cfg = true → 3 ≤ s.ndoors.toNat ∧ s.ndoors.toNat ≤ 32) := by
  cases he : s.err <;> cases hc : s.cfg <;> simp [legal, he, hc]

theorem legal_reset : legal State.reset = true := rfl

theorem legal_writeReg {c : Config} {idx : RegIndex} {v : Word} {s t : State} (h : writeReg c idx v s = some t)
    (hs : legal s = true) : legal t = true := by
  rcases writeReg_cases h with rfl | rfl | rfl <;> exact hs

/-- An effect that leaves no error pending: the error registers are 0 then, and only `CONFIG` writes the door count, which
it has checked. -/
theorem legal_of_effect {i : Instr} {s t : State} (h : Effect s i t) (hs : legal s = true) (ht : t.err = false) :
    legal t = true := by
  obtain ⟨-, hclear, hdoors⟩ := (legal_iff s).1 hs
  cases h with
  | discarded | seeded | rotated | drew => exact hs
  | raised => cases ht
  | cleared => exact (legal_iff _).2 ⟨fun h => Bool.noConfusion h, fun _ => ⟨rfl, rfl⟩, hdoors⟩
  | configured he hc hn =>
    exact (legal_iff _).2 ⟨fun h => Bool.noConfusion (he.symm.trans h), fun _ => hclear he, fun _ => doorsOk_iff.1 hn⟩

theorem legal_raise {e : Error} {w : Word} {s : State} (hs : legal s = true)
    (hfits : errorFits s.cfg (errorCode e) w = true) : legal (raise e w s) = true := by
  obtain ⟨-, -, hdoors⟩ := (legal_iff s).1 hs
  exact (legal_iff _).2 ⟨fun _ => hfits, fun h => Bool.noConfusion h, hdoors⟩

theorem legal_runCommand {w : Word} {s t : State} (h : runCommand w s = .next t) (hs : legal s = true) :
    legal t = true := by
  rcases runCommand_effect h with ⟨e, rfl, -, hfits⟩ | ⟨-, rfl⟩ | ⟨i, heffect, ht⟩
  · exact legal_raise hs hfits
  · exact hs
  · exact legal_of_effect heffect hs ht

end Machine

/-- Settles O57: no error is pending, the error registers are 0, and `CFG = 0`. -/
theorem resetStateIsLegal : Obligations.ResetStateIsLegal := by
  unfold Obligations.ResetStateIsLegal
  exact legal_reset

/-- Settles O56, by what a step can do: an access writes none of the registers concerned, a reset leaves the reset state, and
a command records an error that fits its word or has one of the other effects. -/
theorem stepKeepsTheStateLegal : Obligations.StepKeepsTheStateLegal := by
  unfold Obligations.StepKeepsTheStateLegal
  intro s t hs h
  rcases step_cases h with ⟨-, rfl⟩ | ⟨idx, rest, v, -, -, rfl⟩ | ⟨idx, v, rest, -, -, hw⟩ | ⟨w, rest, -, hrun⟩ |
    ⟨rest, -, rfl⟩
  · exact hs
  · exact hs
  · exact legal_writeReg hw hs
  · rcases abandonedByReset_cases hrun with hnext | ⟨-, rest', -, rfl⟩
    · exact legal_runCommand hnext hs
    · exact legal_reset
  · exact legal_reset

/-- Settles O7: a pending error discards the command words, and the accesses to the other registers do not look at it. -/
theorem pendingErrorDiscardsCommands : Obligations.PendingErrorDiscardsCommands := by
  unfold Obligations.PendingErrorDiscardsCommands
  refine fun s rest he => ⟨fun w hops hw => ?_, fun idx v hops hv => ?_, fun v hops => ?_, fun idx i v hidx hops => ?_⟩
  · exact step_of_runCommand hops (runCommand_discarded hw he)
  · exact step_of_rd_value hops hv
  · exact step_of_wr_value (by decide) hops (writeReg_arg0 v _ rfl)
  · exact step_of_wr_value (by omega) hops (writeReg_cdf v _ hidx)

/-- Settles O9, by what a step can do: nothing but a command that is not discarded enters the error state, and it records its
own word. -/
theorem errorsArePrecise : Obligations.ErrorsArePrecise := by
  unfold Obligations.ErrorsArePrecise
  intro s t h he ht
  rcases step_cases h with ⟨-, rfl⟩ | ⟨idx, rest, v, -, -, rfl⟩ | ⟨idx, v, rest, -, -, hw⟩ | ⟨w, rest, hops, hrun⟩ |
    ⟨rest, -, rfl⟩
  · cases he.symm.trans ht
  · cases he.symm.trans ht
  · cases ((writeReg_keeps_error hw).1.trans he).symm.trans ht
  · rcases abandonedByReset_cases hrun with hnext | ⟨-, rest', -, rfl⟩
    · rcases runCommand_effect hnext with ⟨e, rfl, -, hfits⟩ | ⟨hpending, -⟩ | ⟨i, -, hclear⟩
      · exact ⟨w, rest, hops, hfits, rfl⟩
      · cases he.symm.trans hpending
      · cases hclear.symm.trans ht
    · cases ht
  · cases ht

/-- Settles O10, by what a step can do: a pending error is in no register that an access writes, and of the command words
only `ERRCLR`'s is executed. -/
theorem firstErrorIsKept : Obligations.FirstErrorIsKept := by
  unfold Obligations.FirstErrorIsKept
  intro s t h he hreset
  rcases step_cases h with ⟨-, rfl⟩ | ⟨idx, rest, v, -, -, rfl⟩ | ⟨idx, v, rest, -, -, hw⟩ | ⟨w, rest, hops, hrun⟩ |
    ⟨rest, hops, -⟩
  · exact .inl ⟨he, rfl, rfl⟩
  · exact .inl ⟨he, rfl, rfl⟩
  · obtain ⟨herr, hcode, hcmd⟩ := writeReg_keeps_error hw
    exact .inl ⟨herr.trans he, hcode, hcmd⟩
  · rcases runCommand_pending (w := w) (s := s.withOps rest) he with hnext | ⟨rfl, hnext⟩ <;> rw [hnext] at hrun <;>
      cases hrun
    · exact .inl ⟨he, rfl, rfl⟩
    · exact .inr ⟨rest, hops, rfl, rfl, rfl⟩
  · simp [hops] at hreset

/-- Settles O47: none of the effects of a command is on `ARG0`, the table or the host's side. -/
theorem noCommandWritesItsOperands : Obligations.NoCommandWritesItsOperands := by
  unfold Obligations.NoCommandWritesItsOperands
  intro i s t h
  cases exec_effect h with
  | discarded | raised | cleared | configured | seeded | rotated | drew => exact ⟨rfl, rfl, rfl, rfl⟩

end Sys2Proof
end

section
/-! `ROTL` and `ROTR` on `ARG0` (R111, R112), the illegal words of format R (R84), and the statements of `40_bitrotate.md`
that follow. -/

namespace Sys2Proof

open Sys2Proof.Machine Sys2Proof.Claims

namespace Machine

theorem rotateAmount_eq {k : BitVec 8} (hk : k.toNat < 64) : rotateAmount k = k.toNat := by
  rw [rotateAmount, BitVec.extractLsb'_toNat, Nat.shiftRight_zero, Nat.mod_eq_of_lt hk]

theorem exec_rotl_of_clear {k : BitVec 8} {s : State} (hk : k.toNat < 64) (he : s.err = false) :
    exec (.rotl k) s = .next { s with res := { val := s.arg0.val.rotateLeft k.toNat, written := true } } := by
  rw [← rotl64_eq_rotateLeft _ hk, ← rotateAmount_eq hk]
  exact unlessPending_clear _ he

theorem exec_rotr_of_clear {k : BitVec 8} {s : State} (hk : k.toNat < 64) (he : s.err = false) :
    exec (.rotr k) s = .next { s with res := { val := s.arg0.val.rotateRight k.toNat, written := true } } := by
  rw [← rotr64_eq_rotateRight _ hk, ← rotateAmount_eq hk]
  exact unlessPending_clear _ he

end Machine

/-! ### The illegal words of format R -/

/-- The word of a rotate, written as a number. -/
theorem sub_word_eq (op sub : BitVec 8) :
    commandWord op 0 sub 0 = BitVec.ofNat 64 (op.toNat + sub.toNat * 2 ^ 16) := by
  apply BitVec.eq_of_toNat_eq
  simp only [commandWord_toNat, BitVec.toNat_ofNat, BitVec.ofNat_eq_ofNat]
  omega

/-- A word with an opcode of format R that is none of the opcode's words has a field that is not as the format has it. -/
theorem decode_error_of_formatR {w : Word} (hop : (opField w).toNat ∈ [0x10, 0x11])
    (hw : ∀ sub : BitVec 8, sub.toNat < 64 → w ≠ commandWord (opField w) 0 sub 0) : ∃ e, decode w = .error e := by
  refine decode_error_of_decodeOp fun hrsv => ?_
  obtain ⟨i, hi⟩ := decodeOp_eq_formatR hop
  refine ⟨_, hi.trans (if_neg ?_)⟩
  rintro ⟨hc, hsub, himm⟩
  have hfields := word_of_fields w hrsv.1 hrsv.2
  rw [hc, himm] at hfields
  exact hw _ hsub hfields

theorem illegalUnless_of_formatR {op : BitVec 8} (hop : op.toNat ∈ [0x10, 0x11]) :
    IllegalUnless op (fun w => ∃ k, k < 64 ∧ w = BitVec.ofNat 64 (op.toNat + k * 2 ^ 16)) := by
  rintro s w rest hops he rfl hw
  obtain ⟨e, hdec⟩ := decode_error_of_formatR hop fun sub hsub hword =>
    hw ⟨sub.toNat, hsub, hword.trans (sub_word_eq _ sub)⟩
  exact step_of_runCommand hops (runCommand_of_error hdec he)

/-- Settles O12: the rotate of R110 is that of the bit vector; `ROTL` has format R. -/
theorem rotlRotatesArg0 : Obligations.RotlRotatesArg0 := by
  unfold Obligations.RotlRotatesArg0
  exact ⟨fun s k hk he => exec_rotl_of_clear hk he, fun s k he => exec_discarded (by simp) he,
    illegalUnless_of_formatR (op := 0x10) (by decide)⟩

/-- Settles O13: the rotate of R110 is that of the bit vector; `ROTR` has format R. -/
theorem rotrRotatesArg0 : Obligations.RotrRotatesArg0 := by
  unfold Obligations.RotrRotatesArg0
  exact ⟨fun s k hk he => exec_rotr_of_clear hk he, fun s k he => exec_discarded (by simp) he,
    illegalUnless_of_formatR (op := 0x11) (by decide)⟩

end Sys2Proof
end

section
/-! The multiplication of MCG128 as arithmetic modulo `2^128` (R122, R123), what a step and a seeding keep of the bank
(R124 to R130), and the statements of `41_prng_engines.md` that follow. -/

namespace Sys2Proof

open Sys2Proof.Machine Sys2Proof.Claims

namespace Machine

/-! ### The partial products -/

theorem eq_of_append_eq {a b c d : Word} (h : (a ++ b : U128) = c ++ d) : a = c ∧ b = d := by
  rw [← BitVec.toNat_inj, toNat_append_eq_add, toNat_append_eq_add] at h
  rw [← BitVec.toNat_inj, ← BitVec.toNat_inj]
  omega

theorem lo32_toNat (w : Word) : (lo32 w).toNat = w.toNat % 2 ^ 32 := BitVec.toNat_setWidth ..

theorem hi32_toNat (w : Word) : (hi32 w).toNat = w.toNat / 2 ^ 32 := toNat_extractLsb'_top w rfl

/-- The product of two words by the products of their halves. -/
theorem mul_by_halves (a b : Word) : a.toNat * b.toNat = (mul32x32 (lo32 a) (lo32 b)).toNat
    + ((mul32x32 (lo32 a) (hi32 b)).toNat + (mul32x32 (hi32 a) (lo32 b)).toNat) * 2 ^ 32
    + (mul32x32 (hi32 a) (hi32 b)).toNat * 2 ^ 64 := by
  have ha : a.toNat = (lo32 a).toNat + (hi32 a).toNat * 2 ^ 32 := by
    rw [lo32_toNat, hi32_toNat]
    omega
  have hb : b.toNat = (lo32 b).toNat + (hi32 b).toNat * 2 ^ 32 := by
    rw [lo32_toNat, hi32_toNat]
    omega
  simp only [mul32x32_toNat]
  rw [ha, hb]
  ring

theorem mcgPartialProducts_eq (lo hi m : Word) :
    (mcgPartialProducts lo hi m).2 ++ (mcgPartialProducts lo hi m).1 = (hi ++ lo : U128) * m.setWidth 128 := by
  have hm : (m.setWidth 128).toNat = m.toNat := BitVec.toNat_setWidth_of_le (by decide)
  have hwiden (x : U32) : (x.setWidth 64).toNat = x.toNat := BitVec.toNat_setWidth_of_le (by decide)
  apply BitVec.eq_of_toNat_eq
  rw [BitVec.toNat_mul, toNat_append_eq_add, toNat_append_eq_add, hm, Nat.add_mul, Nat.mul_right_comm, mul_by_halves lo m]
  simp only [mcgPartialProducts, toNat_append_eq_add, BitVec.toNat_add, BitVec.toNat_mul, shr64, BitVec.toNat_ushiftRight,
    Nat.shiftRight_eq_div_pow, hwiden, lo32_toNat]
  have h00 := (mul32x32 (lo32 lo) (lo32 m)).isLt
  have h01 := (mul32x32 (lo32 lo) (hi32 m)).isLt
  have h10 := (mul32x32 (hi32 lo) (lo32 m)).isLt
  have h11 := (mul32x32 (hi32 lo) (hi32 m)).isLt
  omega

/-! ### The multiplication -/

/-- The inverse of `MCG_MULT` modulo `2^128`: the multiplier is odd. -/
def mcgMultInv : U128 := 0x0CD365D2CB1A6A6C8B838D0354EAD59D

theorem mcgMult_mul_inv : (0x0000000000000000DA942042E4DD58B5 : U128) * mcgMultInv = 1#128 := by decide

theorem mcgState_eq_step_mul_inv (b : Bank) : mcgState b = mcgState (stepMCG128 params b).2 * mcgMultInv := by
  rw [stepMCG128_state, BitVec.mul_assoc, mcgMult_mul_inv, BitVec.mul_one]

theorem exists_stepMCG128_state_eq (t : U128) : ∃ b : Bank, mcgState (stepMCG128 params b).2 = t := by
  refine ⟨(⟨0, 0, 0, 0⟩ : Bank).setMcg (t * mcgMultInv), ?_⟩
  rw [stepMCG128_state, mcgState_setMcg, BitVec.mul_assoc, BitVec.mul_comm mcgMultInv, mcgMult_mul_inv, BitVec.mul_one]

/-- `2^z` divides the modulus, so it divides a product with an odd number exactly when it divides the other factor. -/
theorem two_pow_dvd_step_iff (b : Bank) {z : Nat} (hz : z ≤ 128) :
    2 ^ z ∣ (mcgState (stepMCG128 params b).2).toNat ↔ 2 ^ z ∣ (mcgState b).toNat := by
  have hodd : Nat.Coprime (2 ^ z) 0xDA942042E4DD58B5 := Nat.Coprime.pow_left z (by decide)
  rw [stepMCG128_state, BitVec.toNat_mul, Nat.dvd_mod_iff (Nat.pow_dvd_pow 2 hz)]
  exact hodd.dvd_mul_right

theorem s0_getLsbD_zero (b : Bank) : b.s0.getLsbD 0 = !decide (2 ^ 1 ∣ (mcgState b).toNat) := by
  rw [mcgState, toNat_append_eq_add, BitVec.getLsbD, Nat.testBit_zero, Bool.eq_iff_iff]
  simp
  omega

/-- An odd state stays odd (R124). -/
theorem bankAfter_mcg_odd (n : Nat) (b : Bank) : (bankAfter params .mcg128 n b).s0.getLsbD 0 = b.s0.getLsbD 0 := by
  induction n generalizing b with
  | zero => rfl
  | succ n ih =>
    rw [bankAfter_succ, ih, s0_getLsbD_zero, s0_getLsbD_zero]
    simp only [nextWord, two_pow_dvd_step_iff b (show 1 ≤ 128 by decide)]

/-! ### The zero state of MCG128 -/

/-- The zero state answers 0 and stays as it is. -/
theorem nextWord_mcg_zero {b : Bank} (h0 : b.s0 = 0) (h1 : b.s1 = 0) : nextWord params .mcg128 b = (0, b) := by
  cases b
  subst h0 h1
  simp [nextWord, stepMCG128, mcgState, Bank.setMcg, mcgOutput, rotr64, shr64, shl64]

theorem bankAfter_mcg_zero {b : Bank} (h0 : b.s0 = 0) (h1 : b.s1 = 0) (n : Nat) : bankAfter params .mcg128 n b = b := by
  induction n with
  | zero => rfl
  | succ n ih => rw [bankAfter_succ, nextWord_mcg_zero h0 h1, ih]

theorem seedBank_mcg_zero (b : Bank) : (seedBank params .mcg128 0 b).s0 = 0 ∧ (seedBank params .mcg128 0 b).s1 = 0 := by
  rw [seedBank, seedInit_mcg, bankAfter_mcg_zero (b := ⟨0, 0, b.s2, b.s3⟩) rfl rfl]
  exact ⟨rfl, rfl⟩

/-! ### The counters -/

theorem bankAfter_mcg_frame (n : Nat) (b : Bank) :
    (bankAfter params .mcg128 n b).s2 = b.s2 ∧ (bankAfter params .mcg128 n b).s3 = b.s3 := by
  induction n generalizing b with
  | zero => exact ⟨rfl, rfl⟩
  | succ n ih =>
    obtain ⟨h2, h3⟩ := nextWord_mcg_frame params b
    rw [bankAfter_succ, ← h2, ← h3]
    exact ih _

theorem bankAfter_sfcCounter_s3 (n : Nat) (b : Bank) :
    (bankAfter params .sfcCounter n b).s3 = b.s3 + BitVec.ofNat 64 n := by
  induction n generalizing b with
  | zero => simp
  | succ n ih =>
    rw [bankAfter_succ, ih, BitVec.ofNat_add, BitVec.add_comm (BitVec.ofNat 64 n), ← BitVec.add_assoc]
    rfl

/-- The advance of the counter under SFC-PCGCounter (R126). -/
def pcgCounterNext (x : Word) : Word := x * params.pcgCtrMult + params.pcgCtrInc

theorem bankAfter_sfcPcgCounter_s3 (n : Nat) (b : Bank) :
    (bankAfter params .sfcPcgCounter n b).s3 = pcgCounterNext^[n] b.s3 := by
  induction n generalizing b with
  | zero => rfl
  | succ n ih =>
    rw [bankAfter_succ, ih, Function.iterate_succ_apply]
    rfl

/-! ### The stream of the selected engine -/

/-- A step reads and writes the words the engine uses only (R21). -/
theorem nextWord_sameStream {e : Engine} {b b' : Bank} (h : SameStream e b b') :
    (nextWord params e b).1 = (nextWord params e b').1 ∧ SameStream e (nextWord params e b).2 (nextWord params e b').2 := by
  obtain ⟨h0, h1, hrest⟩ := h
  cases e with
  | mcg128 =>
    have hstate : mcgState b = mcgState b' := congrArg₂ (· ++ ·) h1 h0
    simp [nextWord, stepMCG128, SameStream, hstate, mcgOutput, Bank.setMcg, params]
  | sfcCounter | sfcPcgCounter =>
    obtain ⟨h2, h3⟩ := hrest.resolve_left (by simp)
    obtain rfl : b = b' := by cases b; cases b'; simp_all
    exact ⟨rfl, rfl, rfl, .inr ⟨rfl, rfl⟩⟩

theorem bankAfter_sameStream {e : Engine} (n : Nat) {b b' : Bank} (h : SameStream e b b') :
    SameStream e (bankAfter params e n b) (bankAfter params e n b') := by
  induction n generalizing b b' with
  | zero => exact h
  | succ n ih => exact ih (nextWord_sameStream h).2

/-- The initial state of an engine is made from the seed alone (R127 to R129), so its stream is. -/
theorem seedBank_sameStream (e : Engine) (seed : Word) (b b' : Bank) :
    SameStream e (seedBank params e seed b) (seedBank params e seed b') := by
  refine bankAfter_sameStream _ ?_
  cases e with
  | mcg128 => exact ⟨rfl, rfl, .inl rfl⟩
  | sfcCounter | sfcPcgCounter => exact ⟨rfl, rfl, .inr ⟨rfl, rfl⟩⟩

theorem exec_seed_of_ready {s : State} (he : s.err = false) (hc : s.cfg = true) :
    exec .seed s = .next (s.setBank (seedBank params s.eng s.arg0.val s.bank)) :=
  drawing_ready he hc rfl

theorem exec_config_done {n : U32} {id : BitVec 8} {s t : State} (he : s.err = false)
    (h : exec (.config n id) s = .next t) (ht : t.err = false) : ∃ e, t = configure params n e s := by
  cases exec_effect h with
  | configured => exact ⟨_, rfl⟩
  | discarded _ hpending => cases he.symm.trans hpending
  | raised => cases ht
  | rotated _ _ hw => cases hw
  | drew _ _ hi => cases hi

end Machine

/-- Settles O14: the partial products are the product of the halves with the carries in place; one step is this
multiplication. -/
theorem partialProductsAreTheMultiplication : Obligations.PartialProductsAreTheMultiplication := by
  unfold Obligations.PartialProductsAreTheMultiplication
  refine ⟨mcgPartialProducts_eq, fun b => ?_⟩
  obtain ⟨hhigh, hlow⟩ := eq_of_append_eq ((stepMCG128_state b).trans (mcgPartialProducts_eq b.s0 b.s1 mcgMultLo).symm)
  exact Prod.ext hlow hhigh

/-- Settles O16: the multiplier has an inverse modulo `2^128` and is odd. -/
theorem mcgKeepsTrailingZeros : Obligations.McgKeepsTrailingZeros := by
  unfold Obligations.McgKeepsTrailingZeros
  refine ⟨fun b b' h0 h1 => ?injective, exists_stepMCG128_state_eq, fun b z hz => two_pow_dvd_step_iff b hz,
    fun s ⟨he, hc⟩ heng h0 h1 => ?absorbing, seedBank_mcg_zero, fun b n => ?odd⟩
  case injective =>
    have hstate : mcgState b = mcgState b' := by
      rw [mcgState_eq_step_mul_inv b, mcgState_eq_step_mul_inv b', mcgState, mcgState, h0, h1]
    exact (eq_of_append_eq hstate).symm
  case absorbing => rw [exec_next_of_ready he hc, heng, nextWord_mcg_zero h0 h1]
  case odd =>
    rw [bankAfter_mcg_odd, seedBank, bankAfter_mcg_odd, seedInit_mcg]
    exact (by decide : (0xC68FA87D83F72455 : Word).getLsbD 0 = true)

/-- Settles O17: the seeding written out is the model's; `SEED` needs an engine and has format Z. -/
theorem seedReseedsFromArg0 : Obligations.SeedReseedsFromArg0 := by
  unfold Obligations.SeedReseedsFromArg0
  refine ⟨fun s ⟨he, hc⟩ => ?_, refusedUnready_of_needsEngine rfl, illegalUnless_of_formatZ (op := 0x02) (by decide)⟩
  rw [exec_seed_of_ready he hc, seedBank_eq_seeded]
  rfl

/-- Settles O18: two seedings leave one stream, and a stream stays one, step by step. -/
theorem seedForgetsTheOldStream : Obligations.SeedForgetsTheOldStream := by
  unfold Obligations.SeedForgetsTheOldStream
  rintro s t s' t' ⟨hes, hcs⟩ ⟨het, hct⟩ heng harg hs ht
  rw [exec_seed_of_ready hes hcs] at hs
  rw [exec_seed_of_ready het hct, ← heng, ← harg] at ht
  cases hs
  cases ht
  have hsame := seedBank_sameStream s.eng s.arg0.val s.bank t.bank
  exact ⟨hsame, fun n => ⟨bankAfter_sameStream n hsame, (nextWord_sameStream (bankAfter_sameStream n hsame)).1⟩⟩

/-- Settles O19: `CONFIG` and `SEED` seed the engine in one way, and the stream does not depend on the bank before. -/
theorem seedConstantRestoresTheConfiguredStream : Obligations.SeedConstantRestoresTheConfiguredStream := by
  unfold Obligations.SeedConstantRestoresTheConfiguredStream
  rintro s t u n id he - h ht ⟨heu, hcu⟩ heng harg
  obtain ⟨e, rfl⟩ := exec_config_done he h ht
  have hseed : exec .seed u = .next (u.setBank (seedBank params e seedConst u.bank)) := by
    rw [exec_seed_of_ready heu hcu, heng, harg]
    rfl
  exact ⟨_, hseed, seedBank_sameStream e seedConst s.bank u.bank, rfl, rfl, rfl, rfl, rfl, heu⟩

/-- Settles O20: each counter runs by itself from its initial value, 12 times; MCG128 has no counter. -/
theorem counterAfterSeedingIgnoresTheSeed : Obligations.CounterAfterSeedingIgnoresTheSeed := by
  unfold Obligations.CounterAfterSeedingIgnoresTheSeed
  refine fun seed b => ⟨?_, ?_, bankAfter_mcg_frame _ _⟩
  · rw [seedBank, bankAfter_sfcCounter_s3]
    exact (by decide : (1 : Word) + BitVec.ofNat 64 12 = 0x000000000000000D)
  · rw [seedBank, bankAfter_sfcPcgCounter_s3]
    exact (by decide : pcgCounterNext^[12] 1 = 0x892769E4FD73A80D)

end Sys2Proof
end

section
/-! The fields of the pattern that `FRAND` answers (R152), and the statement of `42_uniform.md` that follows. -/

namespace Sys2Proof

open Sys2Proof.Machine Sys2Proof.Claims

namespace Machine

theorem frandBits_zero : frandBits 0 = 0 := rfl

theorem log2_lt_52 {d : Nat} (h0 : d ≠ 0) (hd : d < 2 ^ 52) : d.log2 < 52 := (Nat.log2_lt h0).2 hd

/-- A draw that is not 0 gives a normal number: its leading bit moved up to place 52, and the exponent that says how far. -/
theorem frandBits_toNat {d : Nat} (h0 : d ≠ 0) (hd : d < 2 ^ 52) :
    (frandBits d).toNat = (971 + d.log2) * 2 ^ 52 + (d * 2 ^ (52 - d.log2) - 2 ^ 52) := by
  have hlog := log2_lt_52 h0 hd
  obtain ⟨hlo, hhi⟩ := normalized_bounds h0 hlog.le
  rw [frandBits, if_neg h0, BitVec.toNat_ofNat]
  omega

theorem f64Exp_frandBits {d : Nat} (h0 : d ≠ 0) (hd : d < 2 ^ 52) : f64Exp (frandBits d) = 971 + d.log2 := by
  have hlog := log2_lt_52 h0 hd
  obtain ⟨hlo, hhi⟩ := normalized_bounds h0 hlog.le
  rw [f64Exp, BitVec.extractLsb'_toNat, frandBits_toNat h0 hd, Nat.shiftRight_eq_div_pow]
  omega

theorem f64Sig_frandBits {d : Nat} (h0 : d ≠ 0) (hd : d < 2 ^ 52) :
    f64Sig (frandBits d) = d * 2 ^ (52 - d.log2) := by
  have hlog := log2_lt_52 h0 hd
  obtain ⟨hlo, hhi⟩ := normalized_bounds h0 hlog.le
  have hnormal : f64Exp (frandBits d) ≠ 0 := by
    rw [f64Exp_frandBits h0 hd]
    omega
  rw [f64Sig, if_neg hnormal, f64Frac, BitVec.extractLsb'_toNat, frandBits_toNat h0 hd, Nat.shiftRight_zero]
  omega

/-- The value of the pattern is `d * 2^-52`, in units of `2^-1075`. -/
theorem frandBits_value {d : Nat} (hd : d < 2 ^ 52) :
    f64Sig (frandBits d) * 2 ^ f64Scale (frandBits d) = d * 2 ^ 1023 := by
  by_cases h0 : d = 0
  · have hsig : f64Sig 0 = 0 := rfl
    rw [h0, frandBits_zero, hsig, Nat.zero_mul, Nat.zero_mul]
  · have hlog := log2_lt_52 h0 hd
    have hplaces : 52 - d.log2 + (971 + d.log2) = 1023 := by omega
    rw [f64Scale, f64Exp_frandBits h0 hd, max_eq_left (by omega), f64Sig_frandBits h0 hd, Nat.mul_assoc, ← Nat.pow_add]
    exact congrArg (d * 2 ^ ·) hplaces

theorem frandBits_injective {d d' : Nat} (hd : d < 2 ^ 52) (hd' : d' < 2 ^ 52) (h : frandBits d' = frandBits d) :
    d' = d := by
  have hvalue := frandBits_value hd'
  rw [h, frandBits_value hd] at hvalue
  exact (Nat.eq_of_mul_eq_mul_right (by positivity) hvalue).symm

theorem f64Neg_eq_false {w : Word} (h : w.toNat < 2 ^ 63) : f64Neg w = false := by
  rw [f64Neg, BitVec.msb_eq_decide]
  simpa using h

/-- The leading bit is below place 52, so it is moved up by at least one place. -/
theorem frandBits_getLsbD_zero {d : Nat} (hd : d < 2 ^ 52) : (frandBits d).getLsbD 0 = false := by
  by_cases h0 : d = 0
  · rw [h0, frandBits_zero]
    rfl
  · have hlog := log2_lt_52 h0 hd
    have heven : d * 2 ^ (52 - d.log2) = d * 2 ^ (51 - d.log2) * 2 := by
      rw [Nat.mul_assoc, ← Nat.pow_succ, show (51 - d.log2).succ = 52 - d.log2 by omega]
    rw [BitVec.getLsbD, Nat.testBit_zero, frandBits_toNat h0 hd, decide_eq_false_iff_not]
    omega

theorem f64Sub_ofNat_one {d : Nat} (hd : d < 2 ^ 52) :
    f64Sub (BitVec.ofNat 64 (0x3FF * 2 ^ 52 + d)) 0x3FF0000000000000 = frandBits d := by
  have hfrac : (BitVec.ofNat 52 d).toNat = d := by rw [BitVec.toNat_ofNat, Nat.mod_eq_of_lt hd]
  have hsub := f64Sub_oneToTwo_one (BitVec.ofNat 52 d)
  rwa [oneToTwo_eq_ofNat, hfrac] at hsub

end Machine

/-- Settles O26: the difference is the closed form, whose exponent and significand are read off it; their value determines
the draw. -/
theorem frandIsExact : Obligations.FrandIsExact := by
  unfold Obligations.FrandIsExact
  intro d hd
  rw [f64Sub_ofNat_one hd]
  have hone := frandBits_lt_one hd
  refine ⟨rfl, f64Neg_eq_false (hone.trans (by decide)), frandBits_value hd, hone, frandBits_getLsbD_zero hd, fun h0 => ?_,
    fun d' hd' => frandBits_injective hd hd'⟩
  have hlog := log2_lt_52 h0 hd
  rw [f64Exp_frandBits h0 hd]
  omega

end Sys2Proof
end

section
/-! The two ends of a bounded draw (R165, R168, R284), the count of the draws by value, and the statements of
`43_bounded.md` that follow. -/

namespace Sys2Proof

open Sys2Proof.Machine Sys2Proof.Claims

namespace Machine

/-! ### A draw that is never accepted -/

theorem redraw_of_allRejected {e : Engine} {r : U32} (hr : r ≠ 0) (fuel : Nat) {b : Bank}
    (hrej : ∀ n, rejected e r b n = true) : redraw params e r (threshold r) fuel b = .stop .neverCompletes := by
  induction fuel generalizing b with
  | zero => rfl
  | succ fuel ih =>
    rw [redraw, if_pos ((lo32_lt_threshold_iff hr e b).2 (hrej 0)), rand32_bank]
    split
    · rfl
    · exact ih fun n => hrej (n + 1)

theorem bounded_of_allRejected {e : Engine} {r : U32} {b : Bank} (hr : r ≠ 0) (hrej : ∀ n, rejected e r b n = true) :
    bounded params e r b = .stop .neverCompletes := by
  rw [bounded_of_rejected hr (hrej 0)]
  exact redraw_of_allRejected hr _ fun n => hrej (n + 1)

/-- A bounded draw answers what the unbounded loop yields, or no draw is ever accepted and it never ends. -/
theorem bounded_cases (e : Engine) {r : U32} (hr : r ≠ 0) (b : Bank) :
    (∃ v b', Yields e r b v.toNat b' ∧ bounded params e r b = .done v b')
    ∨ ((∀ n, rejected e r b n = true) ∧ bounded params e r b = .stop .neverCompletes) := by
  by_cases hall : ∀ n, rejected e r b n = true
  · exact .inr ⟨hall, bounded_of_allRejected hr hall⟩
  · have hsome : ∃ n, rejected e r b n = false := by simpa using hall
    have hfirst : ∀ j, j < Nat.find hsome → rejected e r b j = true := fun j hj => by simpa using Nat.find_min hsome hj
    have hyields : Yields e r b _ _ := ⟨Nat.find hsome, hfirst, Nat.find_spec hsome, rfl, rfl⟩
    obtain ⟨v, hv, hdone⟩ := bounded_of_yields hr hyields
    exact .inl ⟨v, _, hv ▸ hyields, hdone⟩

theorem yields_of_bounded {e : Engine} {r v : U32} {b b' : Bank} (hr : r ≠ 0) (h : bounded params e r b = .done v b') :
    Yields e r b v.toNat b' := by
  rcases bounded_cases e hr b with ⟨u, c, hyields, hdone⟩ | ⟨-, hstop⟩
  · cases hdone.symm.trans h
    exact hyields
  · cases hstop.symm.trans h

theorem bounded_stops_iff {e : Engine} {r : U32} {b : Bank} (hr : r ≠ 0) :
    bounded params e r b = .stop .neverCompletes ↔ ∀ n, rejected e r b n = true := by
  refine ⟨fun h => ?_, bounded_of_allRejected hr⟩
  rcases bounded_cases e hr b with ⟨u, c, -, hdone⟩ | ⟨hrej, -⟩
  · cases hdone.symm.trans h
  · exact hrej

theorem finish_zext64_eq_fault_iff {s : State} {x : Drawn U32} {f : Fault} :
    finish s (zext64 x) = .fault f ↔ x = .stop f := by
  cases x <;> simp

/-! ### Powers of two -/

/-- `2^k` divides `2^32`, so the threshold is 0 and no draw is below it. -/
theorem rejected_of_pow_two {r : U32} {k : Nat} (hk : k < 32) (hr : r.toNat = 2 ^ k) (e : Engine) (b : Bank) (n : Nat) :
    rejected e r b n = false := by
  have hzero : 2 ^ 32 % 2 ^ k = 0 := Nat.mod_eq_zero_of_dvd (Nat.pow_dvd_pow 2 hk.le)
  rw [rejected, hr, hzero]
  simp

theorem ne_zero_of_pow_two {r : U32} {k : Nat} (hr : r.toNat = 2 ^ k) : r ≠ 0 := by
  rintro rfl
  exact (Nat.two_pow_pos k).ne hr

/-- With a power of two the first draw is taken, and its top bits are the value. -/
theorem bounded_of_pow_two {r : U32} {k : Nat} (hk : k < 32) (hr : r.toNat = 2 ^ k) (e : Engine) (b : Bank) :
    ∃ v, v.toNat = draw e b 0 / 2 ^ (32 - k) ∧ bounded params e r b = .done v (bankAfter params e 1 b) := by
  refine ⟨_, ?_, bounded_of_accepted (ne_zero_of_pow_two hr) (rejected_of_pow_two hk hr e b 0)⟩
  have hsplit : 2 ^ 32 = 2 ^ k * 2 ^ (32 - k) := by rw [← Nat.pow_add, Nat.add_sub_cancel' hk.le]
  rw [hi32_mul32x32_toNat, hr, hsplit, Nat.mul_comm, Nat.mul_div_mul_left _ _ (Nat.two_pow_pos k), draw_eq_rand32]
  rfl

/-! ### Counting the draws -/

/-- Among the multiples of `r` exactly `q` lie in an interval of length `r * q`. -/
theorem card_multiples {r a q N : Nat} (hr : 0 < r) (hN : a + r * q ≤ r * N) :
    ((Finset.range N).filter fun x => a ≤ x * r ∧ x * r < a + r * q).card = q := by
  have hlower (x : Nat) : a ⌈/⌉ r ≤ x ↔ a ≤ x * r := by rw [ceilDiv_le_iff_le_mul hr, Nat.mul_comm]
  have hupper (x : Nat) : a ⌈/⌉ r + q ≤ x ↔ a + r * q ≤ x * r := by
    constructor
    · intro h
      have hle := (hlower (x - q)).1 (by omega)
      have hq : q * r ≤ x * r := Nat.mul_le_mul_right r (by omega)
      rw [Nat.sub_mul] at hle
      rw [Nat.mul_comm r q]
      omega
    · intro h
      have hq : q ≤ x := Nat.le_of_mul_le_mul_right (by rw [Nat.mul_comm q r]; omega) hr
      have hle := (hlower (x - q)).2 (by rw [Nat.sub_mul, Nat.mul_comm q r]; omega)
      omega
  have hIco : (Finset.range N).filter (fun x => a ≤ x * r ∧ x * r < a + r * q) = Finset.Ico (a ⌈/⌉ r) (a ⌈/⌉ r + q) := by
    ext x
    have hlast := (hupper N).2 (by rwa [Nat.mul_comm N r])
    have hfirst := hlower x
    have hend := hupper x
    rw [Finset.mem_filter, Finset.mem_range, Finset.mem_Ico]
    omega
  rw [hIco, Nat.card_Ico, Nat.add_sub_cancel_left]

/-- Each value is returned by `2^32 / r` accepted draws: their products lie in an interval of length `2^32 - t`, which `r`
divides. -/
theorem card_accepted {r v : Nat} (hr : 0 < r) (hv : v < r) :
    ((Finset.range (2 ^ 32)).filter fun x => ¬ x * r % 2 ^ 32 < 2 ^ 32 % r ∧ x * r / 2 ^ 32 = v).card = 2 ^ 32 / r := by
  have hdiv := Nat.div_add_mod (2 ^ 32) r
  have hlast : (v + 1) * 2 ^ 32 ≤ r * 2 ^ 32 := Nat.mul_le_mul_right _ hv
  rw [← card_multiples (a := v * 2 ^ 32 + 2 ^ 32 % r) (q := 2 ^ 32 / r) (N := 2 ^ 32) hr (by omega)]
  refine congrArg Finset.card (Finset.filter_congr fun x _ => ?_)
  omega

theorem value_lt {r x : Nat} (hr : 0 < r) (hx : x < 2 ^ 32) : x * r / 2 ^ 32 < r :=
  Nat.div_lt_of_lt_mul (Nat.mul_lt_mul_of_pos_right hx hr)

/-- The accepted draws are `2^32 / r` for each of the `r` values, and the others are the remainder. -/
theorem card_rejected {r : Nat} (hr : 0 < r) :
    ((Finset.range (2 ^ 32)).filter fun x => x * r % 2 ^ 32 < 2 ^ 32 % r).card = 2 ^ 32 % r := by
  have hvalues : ((Finset.range (2 ^ 32)).filter fun x => ¬ x * r % 2 ^ 32 < 2 ^ 32 % r).card = r * (2 ^ 32 / r) := by
    rw [Finset.card_eq_sum_card_fiberwise (f := fun x => x * r / 2 ^ 32) (t := Finset.range r) fun x hx =>
      Finset.mem_coe.2 (Finset.mem_range.2 (value_lt hr (Finset.mem_range.1 (Finset.mem_filter.1 hx).1)))]
    calc _ = ∑ _v ∈ Finset.range r, 2 ^ 32 / r := Finset.sum_congr rfl fun v hv => by
          rw [Finset.filter_filter, card_accepted hr (Finset.mem_range.1 hv)]
      _ = r * (2 ^ 32 / r) := by rw [Finset.sum_const, Finset.card_range, smul_eq_mul]
  have htotal := Finset.card_filter_add_card_filter_not (s := Finset.range (2 ^ 32)) (fun x => x * r % 2 ^ 32 < 2 ^ 32 % r)
  rw [hvalues, Finset.card_range] at htotal
  have hdiv := Nat.div_add_mod (2 ^ 32) r
  omega

/-- The model's product and threshold in plain numbers. -/
theorem lo32_mul_lt_threshold_iff {r : U32} (hr : r ≠ 0) {x : Nat} (hx : x < 2 ^ 32) :
    lo32 (mul32x32 (BitVec.ofNat 32 x) r) < threshold r ↔ x * r.toNat % 2 ^ 32 < 2 ^ 32 % r.toNat := by
  rw [BitVec.lt_def, lo32_mul32x32_toNat, threshold_toNat_eq_mod hr, BitVec.toNat_ofNat, Nat.mod_eq_of_lt hx]

theorem hi32_mul_eq_iff {r v : U32} {x : Nat} (hx : x < 2 ^ 32) :
    hi32 (mul32x32 (BitVec.ofNat 32 x) r) = v ↔ x * r.toNat / 2 ^ 32 = v.toNat := by
  rw [← BitVec.toNat_inj, hi32_mul32x32_toNat, BitVec.toNat_ofNat, Nat.mod_eq_of_lt hx]

end Machine

/-- Settles O29: the draw answers when some draw is accepted, and stops by this name when none is. -/
theorem boundedNeverCompletesIffNoDrawIsAccepted : Obligations.BoundedNeverCompletesIffNoDrawIsAccepted := by
  unfold Obligations.BoundedNeverCompletesIffNoDrawIsAccepted
  rintro s r ⟨he, hc⟩ hr
  rw [exec_bounded_of_ready he hc hr, finish_zext64_eq_fault_iff, bounded_stops_iff hr]

/-- Settles O30: a yielded value is below the range, and a power of two accepts its first draw. -/
theorem boundedValuesAreBelowTheRange : Obligations.BoundedValuesAreBelowTheRange := by
  unfold Obligations.BoundedValuesAreBelowTheRange
  intro e r v b b' hr h
  have hlt := yields_lt hr (yields_of_bounded hr h)
  refine ⟨hlt, ?_, fun k hk hpow => ?_⟩
  · rintro rfl
    exact BitVec.eq_of_toNat_eq (Nat.lt_one_iff.1 hlt)
  · obtain ⟨u, hu, hdone⟩ := bounded_of_pow_two hk hpow e b
    cases hdone.symm.trans h
    exact ⟨hu, rfl⟩

/-- Settles O31, by counting the multiples of the range in the interval of products that a value has. -/
theorem boundedIsUnbiased : Obligations.BoundedIsUnbiased := by
  unfold Obligations.BoundedIsUnbiased
  intro r hr
  have hpos := toNat_pos_of_ne_zero hr
  constructor
  · rw [← card_rejected hpos]
    exact congrArg Finset.card (Finset.filter_congr fun x hx => lo32_mul_lt_threshold_iff hr (Finset.mem_range.1 hx))
  · intro v hv
    rw [← card_accepted hpos hv]
    refine congrArg Finset.card (Finset.filter_congr fun x hx => ?_)
    rw [lo32_mul_lt_threshold_iff hr (Finset.mem_range.1 hx), hi32_mul_eq_iff (Finset.mem_range.1 hx)]

end Sys2Proof
end

section
/-! The order of the table's patterns (G4), the contract and the scan of R181 and R182 in plain comparisons, and the
statements of `44_cdf.md` that follow. -/

namespace Sys2Proof

open Sys2Proof.Machine Sys2Proof.Safety Sys2Proof.Claims

namespace Machine

/-! ### The comparison -/

theorem f64Mag_eq {w : Word} (h : w.toNat < 2 ^ 63) : f64Mag w = w.toNat := by
  rw [f64Mag, BitVec.toNat_setWidth, Nat.mod_eq_of_lt h]

theorem f64Key_eq {w : Word} (h : w.toNat < 2 ^ 63) : f64Key w = w.toNat := by
  rw [f64Key, f64Neg_eq_false h, f64Mag_eq h]
  rfl

theorem f64IsNaN_eq_false {w : Word} (h : w.toNat ≤ 0x7FF0000000000000) : f64IsNaN w = false := by
  rw [f64IsNaN, f64Mag_eq (by omega), decide_eq_false_iff_not]
  omega

theorem f64Lt_eq_decide {a b : Word} (ha : a.toNat ≤ 0x7FF0000000000000) (hb : b.toNat ≤ 0x7FF0000000000000) :
    f64Lt a b = decide (a.toNat < b.toNat) := by
  rw [f64Lt, f64IsNaN_eq_false ha, f64IsNaN_eq_false hb, f64Key_eq (by omega), f64Key_eq (by omega)]
  simp

theorem f64Lt_of_isNaN {a b : Word} (h : f64IsNaN a = true ∨ f64IsNaN b = true) : f64Lt a b = false := by
  rcases h with h | h <;> simp [f64Lt, h]

/-- A pattern with the sign set is not above `+0`. -/
theorem f64Lt_zero_of_neg {w : Word} (h : 2 ^ 63 ≤ w.toNat) : f64Lt 0 w = false := by
  have hneg : f64Neg w = true := by
    rw [f64Neg, BitVec.msb_eq_decide]
    simpa using h
  have hkey : ¬ f64Key 0 < f64Key w := by
    have hzero : f64Key 0 = 0 := rfl
    rw [hzero, f64Key, hneg, if_pos rfl]
    omega
  rw [f64Lt, decide_eq_false hkey, Bool.and_false]

theorem f64One_toNat : f64One.toNat = 0x3FF0000000000000 := rfl

theorem f64Lt_zero_le {w : Word} (h : f64Lt 0 w = true) : w.toNat ≤ 0x7FF0000000000000 := by
  have hsign : w.toNat < 2 ^ 63 := by
    by_contra hneg
    rw [f64Lt_zero_of_neg (not_lt.1 hneg)] at h
    cases h
  by_contra hlarge
  have hnan : f64IsNaN w = true := by
    rw [f64IsNaN, f64Mag_eq hsign, decide_eq_true_iff]
    omega
  rw [f64Lt_of_isNaN (.inr hnan)] at h
  cases h

/-- An entry of the table is in `(0,1)` when its pattern lies between those of `+0` and `1.0`. -/
theorem inUnitInterval_iff {x : Word} :
    inUnitInterval x = true ↔ 0 < x.toNat ∧ x.toNat < 0x3FF0000000000000 := by
  rw [inUnitInterval, Bool.and_eq_true]
  constructor
  · rintro ⟨hpos, hone⟩
    have hle := f64Lt_zero_le hpos
    rw [f64Lt_eq_decide (by decide) hle, decide_eq_true_iff] at hpos
    rw [f64Lt_eq_decide hle (by decide), decide_eq_true_iff, f64One_toNat] at hone
    exact ⟨hpos, hone⟩
  · rintro ⟨hpos, hone⟩
    rw [f64Lt_eq_decide (by decide) (by omega), f64Lt_eq_decide (by omega) (by decide), f64One_toNat,
      decide_eq_true_iff, decide_eq_true_iff]
    exact ⟨hpos, hone⟩

/-! ### The contract -/

/-- The order check of R182 looks at neighbours. -/
theorem nonDecreasing_iff_isChain (l : List Word) :
    nonDecreasing l = true ↔ l.IsChain fun x y => f64Lt y x = false := by
  induction l with
  | nil => simp [nonDecreasing]
  | cons x l ih =>
    cases l with
    | nil => simp [nonDecreasing]
    | cons y l => rw [nonDecreasing, Bool.and_eq_true, ih, List.isChain_cons_cons, Bool.not_eq_true']

/-- The contract of R182 for a list of entries, in plain comparisons. -/
theorem tableWellFormed_iff {l : List Word} : tableWellFormed l = true
    ↔ (∀ i (h : i < l.length), 0 < l[i].toNat ∧ l[i].toNat < 0x3FF0000000000000)
      ∧ ∀ i (h : i + 1 < l.length), l[i].toNat ≤ l[i + 1].toNat := by
  rw [tableWellFormed, Bool.and_eq_true, List.all_eq_true, nonDecreasing_iff_isChain, List.isChain_iff_getElem,
    List.forall_mem_iff_getElem]
  simp only [inUnitInterval_iff]
  refine and_congr_right fun hunit => forall₂_congr fun i hi => ?_
  obtain ⟨-, hthis⟩ := hunit i (Nat.lt_of_succ_lt hi)
  obtain ⟨-, hnext⟩ := hunit (i + 1) hi
  rw [f64Lt_eq_decide (by omega) (by omega), decide_eq_false_iff_not, not_lt]

theorem tableEntries_length (s : State) {m : Nat} (hm : m ≤ 65) : (tableEntries s m).length = m - 1 := by
  simp [tableEntries]
  omega

theorem tableEntries_getElem (s : State) {m i : Nat} (h : i < (tableEntries s m).length) :
    (tableEntries s m)[i] = entry s i := by
  have hi : i < 64 := by
    simp [tableEntries] at h
    omega
  simp [tableEntries, entry, hi]

theorem tableWellFormed_tableEntries_iff (s : State) {m : Nat} (hm : m ≤ 65) :
    tableWellFormed (tableEntries s m) = true ↔ TableOk s m := by
  have hlast (i : Nat) : i + 1 < m - 1 ↔ i < m - 2 := by omega
  simp only [tableWellFormed_iff, tableEntries_getElem, tableEntries_length s hm, hlast]

/-! ### The scan -/

/-- The scan is the search for the first entry greater than `r`. -/
theorem scanTable_eq (r : Word) (l : List Word) (i : Nat) : scanTable r l i = i + l.findIdx (f64Lt r) := by
  induction l generalizing i with
  | nil => rfl
  | cons x l ih =>
    rw [scanTable, List.findIdx_cons]
    cases f64Lt r x with
    | true => rfl
    | false => exact (ih (i + 1)).trans (Nat.add_right_comm i 1 _)

theorem firstGreater_scanTable (s : State) {m : Nat} (hm : m ≤ 65) (r : Word) :
    FirstGreater s m r (scanTable r (tableEntries s m) 0) := by
  rw [scanTable_eq, Nat.zero_add, FirstGreater, ← tableEntries_length s hm]
  refine ⟨List.findIdx_le_length, fun i hi => ?_, fun hlt => ?_⟩
  · have hlen := hi.trans_le List.findIdx_le_length
    rw [← tableEntries_getElem s hlen]
    simpa using List.not_of_lt_findIdx hi
  · rw [← tableEntries_getElem s hlt]
    exact List.findIdx_getElem

theorem sampleTable_of_tableOk {e : Engine} {s : State} {m : Nat} {b : Bank} (hm : m ≤ 65) (h : TableOk s m) :
    ∃ k : U32, FirstGreater s m (frandValue e b) k.toNat
      ∧ sampleTable params e (tableEntries s m) b = .done k (nextWord params e b).2 := by
  have hfirst := firstGreater_scanTable s hm (frandValue e b)
  have hk : (BitVec.ofNat 32 (scanTable (frandValue e b) (tableEntries s m) 0)).toNat
      = scanTable (frandValue e b) (tableEntries s m) 0 := by
    rw [BitVec.toNat_ofNat, Nat.mod_eq_of_lt]
    have hle := hfirst.1
    omega
  refine ⟨_, hk.symm ▸ hfirst, ?_⟩
  rw [sampleTable, if_pos ((tableWellFormed_tableEntries_iff s hm).2 h), ← frand_value]
  rfl

theorem sampleTable_of_not_tableOk {e : Engine} {s : State} {m : Nat} {b : Bank} (hm : m ≤ 65) (h : ¬ TableOk s m) :
    sampleTable params e (tableEntries s m) b = .stop .malformedTable :=
  if_neg (mt (tableWellFormed_tableEntries_iff s hm).1 h)

/-! ### `SAMPLE.C` -/

theorem tableSizeOk_iff {m : U32} : tableSizeOk params m = true ↔ 2 ≤ m.toNat ∧ m.toNat ≤ 65 := by
  have hdepth : params.cdfDepth = 64 := rfl
  rw [tableSizeOk, hdepth, Bool.and_eq_true, decide_eq_true_iff, decide_eq_true_iff]

theorem exec_sampleC_of_ready {s : State} {m : U32} (he : s.err = false) (hc : s.cfg = true)
    (hm : tableSizeOk params m = true) :
    exec (.sampleC m) s = finish s (zext64 (sampleTable params s.eng (tableEntries s m.toNat) s.bank)) :=
  drawing_ready he hc hm

theorem operandInRange_sampleC_iff {m : U32} : operandInRange (.sampleC m) = true ↔ 2 ≤ m.toNat ∧ m.toNat ≤ 65 := by
  rw [operandInRange, Bool.and_eq_true, decide_eq_true_iff, decide_eq_true_iff]

/-- The one way a command with an operand out of range is refused (R251). -/
theorem exec_outOfRange {i : Instr} {s : State} (hn : needsEngine i = true) (hi : i ≠ .seed) (he : s.err = false)
    (hc : s.cfg = true) (hr : operandInRange i = false) : exec i s = .next (errorState 5 (encode i) s) := by
  obtain ⟨x, hx⟩ := exec_eq_drawing s hn hi
  rw [hx, hr]
  exact drawing_outOfRange he hc

end Machine

/-- Settles O34: the contract and the scan are the plain ones, and a draw takes one step; `SAMPLE.C` needs an engine and has
format IC. -/
theorem sampleByTableReturnsTheFirstGreaterEntry : Obligations.SampleByTableReturnsTheFirstGreaterEntry := by
  unfold Obligations.SampleByTableReturnsTheFirstGreaterEntry
  refine ⟨fun s m ⟨he, hc⟩ hmin hmax htable => ?_, fun s m ⟨he, hc⟩ hmin hmax htable => ?_, fun s m ⟨he, hc⟩ hm => ?_,
    fun _ => refusedUnready_of_needsEngine rfl, illegalUnless_of_formatIC (op := 0x31) (by decide)⟩
  · obtain ⟨k, hk, hdone⟩ := sampleTable_of_tableOk (e := s.eng) (b := s.bank) hmax htable
    refine ⟨k.toNat, hk, ?_⟩
    rw [exec_sampleC_of_ready he hc (tableSizeOk_iff.2 ⟨hmin, hmax⟩), hdone, finish_zext64_done]
  · rw [exec_sampleC_of_ready he hc (tableSizeOk_iff.2 ⟨hmin, hmax⟩), sampleTable_of_not_tableOk hmax htable]
    rfl
  · have hrange : operandInRange (.sampleC m) = false := Bool.eq_false_iff.2 fun hok => by
      obtain ⟨hmin, hmax⟩ := operandInRange_sampleC_iff.1 hok
      omega
    rw [exec_outOfRange rfl (by simp) he hc hrange, encode, imm_word_eq]
    rfl

/-- Settles O35: patterns without a sign order as numbers up to that of the infinity. -/
theorem tableComparisonOrdersPatterns : Obligations.TableComparisonOrdersPatterns := by
  unfold Obligations.TableComparisonOrdersPatterns
  exact ⟨fun a b ha hb => f64Lt_eq_decide ha hb, fun a b h => f64Lt_of_isNaN h, rfl⟩

end Sys2Proof
end

section
/-! The DoorMask operand (R39), the door of an ordinal below the population (R195, R196), the population that is not the
popcount (R197), and the statements of `45_doorset.md` that follow. -/

namespace Sys2Proof

open Sys2Proof.Machine Sys2Proof.Safety Sys2Proof.Claims

namespace Machine

/-! ### The mask and the result word -/

theorem arg0Mask_getLsbD (s : State) : (arg0Mask params s).getLsbD = maskBit s := by
  funext d
  rw [arg0Mask, params_maskW, BitVec.setWidth_eq, BitVec.getLsbD_setWidth, maskBit]

theorem popcount_arg0Mask (s : State) : popcount (arg0Mask params s) = rank (maskBit s) 32 := by
  rw [popcount_eq_rank, arg0Mask_getLsbD]

theorem doorBit_toNat {pos : Nat} (h : pos < 32) : (doorBit pos).toNat = 2 ^ pos := by
  rw [doorBit, ← BitVec.twoPow_eq, BitVec.toNat_twoPow, Nat.mod_eq_of_lt (Nat.pow_lt_pow_right (by decide) h)]

theorem pickResult_eq {pos : Nat} (h : pos < 32) : pickResult pos = pickedWord pos := by
  have hbit : 2 ^ pos < 2 ^ 32 := Nat.pow_lt_pow_right (by decide) h
  have hpos := Nat.two_pow_pos pos
  apply BitVec.eq_of_toNat_eq
  simp only [pickResult, pickedWord, toNat_append_eq_add, doorBit_toNat h, BitVec.toNat_ofNat]
  omega

/-- An ordinal below the number of set bits has its door. -/
theorem foundDoor_of_lt_rank {s : State} {k : Nat} (h : k < rank (maskBit s) 32) (b : Bank) :
    ∃ pos, pos < 32 ∧ maskBit s pos = true ∧ rank (maskBit s) pos = k
      ∧ foundDoor (kthSetBit params (arg0Mask params s) k) b = .done pos b := by
  rw [← arg0Mask_getLsbD] at h ⊢
  obtain ⟨pos, hlt, hfound, hset, hrank⟩ := exists_kthSetBit_eq_some h
  exact ⟨pos, hlt, hset, hrank, by rw [hfound, foundDoor]⟩

/-! ### `PICK` and `PICK.C` -/

theorem populationOk_iff {p : U32} : populationOk params p = true ↔ 1 ≤ p.toNat ∧ p.toNat ≤ 32 := by
  rw [populationOk, params_maskW, Bool.and_eq_true, decide_eq_true_iff, decide_eq_true_iff]

theorem tablePopulationOk_iff {p : U32} : tablePopulationOk params p = true ↔ 2 ≤ p.toNat ∧ p.toNat ≤ 32 := by
  rw [tablePopulationOk, params_maskW, Bool.and_eq_true, decide_eq_true_iff, decide_eq_true_iff]

theorem exec_pick_of_ready {s : State} {p : U32} (he : s.err = false) (hc : s.cfg = true)
    (hp : 1 ≤ p.toNat ∧ p.toNat ≤ 32) : exec (.pick p) s = finish s (pickWord (whenPopulation (arg0Mask params s) p
      (pickFromMask params s.eng (arg0Mask params s) p s.bank))) :=
  drawing_ready he hc (populationOk_iff.2 hp)

theorem exec_pickC_of_ready {s : State} {p : U32} (he : s.err = false) (hc : s.cfg = true)
    (hp : 2 ≤ p.toNat ∧ p.toNat ≤ 32) : exec (.pickC p) s = finish s (pickWord (whenPopulation (arg0Mask params s) p
      (pickFromMaskByTable params s.eng (arg0Mask params s) (tableEntries s p.toNat) s.bank))) :=
  drawing_ready he hc (tablePopulationOk_iff.2 hp)

theorem whenPopulation_arg0Mask {s : State} {p : U32} (hp : p.toNat = rank (maskBit s) 32) (x : Drawn Nat) :
    whenPopulation (arg0Mask params s) p x = x :=
  whenPopulation_eq _ _ _ (hp.trans (popcount_arg0Mask s).symm)

/-- The stop comes before the draw and before the table is looked at (log 9, log 10). -/
theorem finish_populationMismatch {s : State} {p : U32} (hp : p.toNat ≠ rank (maskBit s) 32) (x : Drawn Nat) :
    finish s (pickWord (whenPopulation (arg0Mask params s) p x)) = .fault .populationMismatch := by
  rw [whenPopulation_ne _ _ _ (popcount_arg0Mask s ▸ hp)]
  rfl

theorem exec_pick_mismatch {s : State} {p : U32} (he : s.err = false) (hc : s.cfg = true)
    (hrange : 1 ≤ p.toNat ∧ p.toNat ≤ 32) (hp : p.toNat ≠ rank (maskBit s) 32) :
    exec (.pick p) s = .fault .populationMismatch :=
  (exec_pick_of_ready he hc hrange).trans (finish_populationMismatch hp _)

theorem exec_pickC_mismatch {s : State} {p : U32} (he : s.err = false) (hc : s.cfg = true)
    (hrange : 2 ≤ p.toNat ∧ p.toNat ≤ 32) (hp : p.toNat ≠ rank (maskBit s) 32) :
    exec (.pickC p) s = .fault .populationMismatch :=
  (exec_pickC_of_ready he hc hrange).trans (finish_populationMismatch hp _)

theorem finish_pickWord_done (s : State) {pos : Nat} (h : pos < 32) (b : Bank) :
    finish s (pickWord (.done pos b)) = .next (resultState (pickedWord pos) b s) := by
  rw [← pickResult_eq h]
  rfl

theorem exec_pick_of_yields {s : State} {p : U32} {k : Nat} {b : Bank} (he : s.err = false) (hc : s.cfg = true) (h0 : p ≠ 0)
    (hp : p.toNat = rank (maskBit s) 32) (h : Yields s.eng p s.bank k b) :
    ∃ pos, pos < 32 ∧ maskBit s pos = true ∧ rank (maskBit s) pos = k
      ∧ exec (.pick p) s = .next (resultState (pickedWord pos) b s) := by
  obtain ⟨pos, hlt, hset, hrank, hfound⟩ := foundDoor_of_lt_rank (hp ▸ yields_lt h0 h) b
  obtain ⟨v, rfl, hdone⟩ := bounded_of_yields h0 h
  refine ⟨pos, hlt, hset, hrank, ?_⟩
  rw [exec_pick_of_ready he hc ⟨toNat_pos_of_ne_zero h0, hp.trans_le (rank_le _ 32)⟩, whenPopulation_arg0Mask hp,
    pickFromMask, hdone, thenDraw_done, hfound, finish_pickWord_done s hlt]

theorem exec_pickC_of_tableOk {s : State} {p : U32} (he : s.err = false) (hc : s.cfg = true) (hmin : 2 ≤ p.toNat)
    (hp : p.toNat = rank (maskBit s) 32) (htable : TableOk s p.toNat) :
    ∃ k pos, FirstGreater s p.toNat (frandValue s.eng s.bank) k
      ∧ pos < 32 ∧ maskBit s pos = true ∧ rank (maskBit s) pos = k
      ∧ exec (.pickC p) s = .next (resultState (pickedWord pos) (nextWord params s.eng s.bank).2 s) := by
  have hmax : p.toNat ≤ 32 := hp.trans_le (rank_le _ 32)
  obtain ⟨k, hk, hdone⟩ := sampleTable_of_tableOk (e := s.eng) (b := s.bank) (by omega) htable
  have hkp : k.toNat < rank (maskBit s) 32 := by
    have hle := hk.1
    omega
  obtain ⟨pos, hlt, hset, hrank, hfound⟩ := foundDoor_of_lt_rank hkp (nextWord params s.eng s.bank).2
  refine ⟨k.toNat, pos, hk, hlt, hset, hrank, ?_⟩
  rw [exec_pickC_of_ready he hc ⟨hmin, hmax⟩, whenPopulation_arg0Mask hp, pickFromMaskByTable, hdone, thenDraw_done, hfound,
    finish_pickWord_done s hlt]

theorem exec_pickC_malformed {s : State} {p : U32} (he : s.err = false) (hc : s.cfg = true) (hmin : 2 ≤ p.toNat)
    (hp : p.toNat = rank (maskBit s) 32) (htable : ¬ TableOk s p.toNat) :
    exec (.pickC p) s = .fault .malformedTable := by
  have hmax : p.toNat ≤ 32 := hp.trans_le (rank_le _ 32)
  rw [exec_pickC_of_ready he hc ⟨hmin, hmax⟩, whenPopulation_arg0Mask hp, pickFromMaskByTable,
    sampleTable_of_not_tableOk (by omega) htable]
  rfl

theorem operandInRange_pick_iff {p : U32} : operandInRange (.pick p) = true ↔ p ≠ 0 ∧ p.toNat ≤ 32 := by
  rw [operandInRange, Bool.and_eq_true, bne_iff_ne, decide_eq_true_iff, ne_eq, ne_eq, ← BitVec.toNat_inj]
  rfl

theorem operandInRange_pickC_iff {p : U32} : operandInRange (.pickC p) = true ↔ 2 ≤ p.toNat ∧ p.toNat ≤ 32 := by
  rw [operandInRange, Bool.and_eq_true, decide_eq_true_iff, decide_eq_true_iff]

end Machine

/-- Settles O37: the ordinal is below the population, so it has its door; `PICK` needs an engine and has format IC. -/
theorem pickReturnsTheKthDoor : Obligations.PickReturnsTheKthDoor := by
  unfold Obligations.PickReturnsTheKthDoor
  refine ⟨fun s p k b ⟨he, hc⟩ h0 hp h => exec_pick_of_yields he hc h0 hp h, fun s p ⟨he, hc⟩ hmin hmax hp t h => ?_,
    fun s p ⟨he, hc⟩ hp => ?_, fun _ => refusedUnready_of_needsEngine rfl,
    illegalUnless_of_formatIC (op := 0x32) (by decide)⟩
  · cases (exec_pick_mismatch he hc ⟨hmin, hmax⟩ hp).symm.trans h
  · have hrange : operandInRange (.pick p) = false := Bool.eq_false_iff.2 fun hok => by
      obtain ⟨h0, hmax⟩ := operandInRange_pick_iff.1 hok
      exact hp.elim h0 hmax.not_gt
    rw [exec_outOfRange rfl (by simp) he hc hrange, encode, imm_word_eq]
    rfl

/-- Settles O38: the ordinal the table gives is below the population, so it has its door; `PICK.C` needs an engine and has
format IC. -/
theorem pickByTableReturnsTheKthDoor : Obligations.PickByTableReturnsTheKthDoor := by
  unfold Obligations.PickByTableReturnsTheKthDoor
  refine ⟨fun s p ⟨he, hc⟩ hmin hp htable => exec_pickC_of_tableOk he hc hmin hp htable,
    fun s p ⟨he, hc⟩ hmin hp htable => exec_pickC_malformed he hc hmin hp htable,
    fun s p ⟨he, hc⟩ hmin hmax hp t h => ?_, fun s p ⟨he, hc⟩ hp => ?_, fun _ => refusedUnready_of_needsEngine rfl,
    illegalUnless_of_formatIC (op := 0x32) (by decide)⟩
  · cases (exec_pickC_mismatch he hc ⟨hmin, hmax⟩ hp).symm.trans h
  · have hrange : operandInRange (.pickC p) = false := Bool.eq_false_iff.2 fun hok => by
      obtain ⟨hmin, hmax⟩ := operandInRange_pickC_iff.1 hok
      omega
    rw [exec_outOfRange rfl (by simp) he hc hrange, encode, imm_word_eq]
    rfl

/-- Settles O39: the population is compared before anything is drawn. -/
theorem populationMismatchStops : Obligations.PopulationMismatchStops := by
  unfold Obligations.PopulationMismatchStops
  exact ⟨fun s p ⟨he, hc⟩ hmin hmax hp => exec_pick_mismatch he hc ⟨hmin, hmax⟩ hp,
    fun s p ⟨he, hc⟩ hmin hmax hp => exec_pickC_mismatch he hc ⟨hmin, hmax⟩ hp⟩

end Sys2Proof
end

section
/-! The two ends of a trial (R210 to R215), the fields of its result (R216), the zero stream (R284), and the statements of
`46_trial.md` and `70_reset_and_hazards.md` that follow. -/

namespace Sys2Proof

open Sys2Proof.Machine Sys2Proof.Safety Sys2Proof.Claims

/-- The doors of a game with `n` doors are as the rules of the game have them (R211 to R214). -/
structure LegalGame (n car pick1 revealed final : Nat) (stay : Bool) : Prop where
  car_lt : car < n
  pick1_lt : pick1 < n
  reveal : otherDoor n pick1 car revealed = true
  final_of_stay : stay = true → final = pick1
  final_of_switch : stay = false → otherDoor n pick1 revealed final = true

theorem LegalGame.final_lt {n car pick1 revealed final : Nat} {stay : Bool}
    (h : LegalGame n car pick1 revealed final stay) : final < n := by
  cases stay with
  | true => exact h.final_of_stay rfl ▸ h.pick1_lt
  | false => exact (otherDoor_iff.1 (h.final_of_switch rfl)).1

namespace Machine

/-! ### The choices of a trial -/

theorem ofNat_ne_zero {pop : Nat} (hpos : 0 < pop) (hle : pop ≤ 32) : BitVec.ofNat 32 pop ≠ 0 := fun hzero => by
  have hmod : pop % 2 ^ 32 = 0 := by simpa using congrArg BitVec.toNat hzero
  omega

theorem foundDoor_of_lt_popcount {mask : U32} {k : Nat} (h : k < popcount mask) (b : Bank) :
    ∃ door, mask.getLsbD door = true ∧ foundDoor (kthSetBit params mask k) b = .done door b := by
  obtain ⟨door, -, hfound, hset, -⟩ := exists_kthSetBit_eq_some (popcount_eq_rank mask ▸ h)
  exact ⟨door, hset, by rw [hfound, foundDoor]⟩

/-- A choice that is not forced is drawn (R212, R214). -/
theorem chooseDoor_of_ne_one (e : Engine) (mask : U32) {pop : Nat} (b : Bank) (h : pop ≠ 1) :
    chooseDoor params e mask pop b = pickFromMask params e mask (BitVec.ofNat 32 pop) b :=
  if_neg fun hforced => h hforced.1

/-- A choice among the doors of a mask is one of them, unless its draw never ends: the ordinal is below the popcount. -/
theorem chooseDoor_cases (e : Engine) {mask : U32} {pop : Nat} (b : Bank) (hpop : popcount mask = pop) (hpos : 0 < pop) :
    (∃ door b', mask.getLsbD door = true ∧ chooseDoor params e mask pop b = .done door b')
    ∨ chooseDoor params e mask pop b = .stop .neverCompletes := by
  have hle : pop ≤ 32 := hpop ▸ popcount_eq_rank mask ▸ rank_le _ 32
  by_cases hone : pop = 1
  · obtain ⟨door, hset, hfound⟩ := foundDoor_of_lt_popcount (k := 0) (hpop.symm ▸ hpos) b
    exact .inl ⟨door, b, hset, by rw [chooseDoor, if_pos ⟨hone, rfl⟩, hfound]⟩
  · have hdraw := chooseDoor_of_ne_one e mask b hone
    have hne := ofNat_ne_zero hpos hle
    rcases bounded_cases e hne b with ⟨k, b', hyields, hdone⟩ | ⟨-, hstop⟩
    · have hk := yields_lt hne hyields
      rw [BitVec.toNat_ofNat, Nat.mod_eq_of_lt (by omega)] at hk
      obtain ⟨door, hset, hfound⟩ := foundDoor_of_lt_popcount (hpop.symm ▸ hk) b'
      exact .inl ⟨door, b', hset, by rw [hdraw, pickFromMask, hdone, thenDraw_done, hfound]⟩
    · exact .inr (by rw [hdraw, pickFromMask, hstop, thenDraw_stop])

theorem reveal_cases (e : Engine) {n car pick1 : Nat} (b : Bank) (hmin : 3 ≤ n) (hmax : n ≤ 32) (hcar : car < n)
    (hpick : pick1 < n) :
    (∃ door b', otherDoor n pick1 car door = true
      ∧ chooseDoor params e (eligible n car pick1) (eligiblePop n car pick1) b = .done door b')
    ∨ chooseDoor params e (eligible n car pick1) (eligiblePop n car pick1) b = .stop .neverCompletes := by
  have hpos : 0 < eligiblePop n car pick1 := by
    unfold eligiblePop
    split <;> omega
  have hcases := chooseDoor_cases e b (popcount_eligible hmax hcar hpick) hpos
  rwa [eligible_getLsbD hmax] at hcases

theorem finalPick_cases (e : Engine) {n car pick1 revealed : Nat} (stay : Bool) (b : Bank) (hmin : 3 ≤ n) (hmax : n ≤ 32)
    (hpick : pick1 < n) (hreveal : otherDoor n pick1 car revealed = true) :
    (∃ final b', (stay = true → final = pick1) ∧ (stay = false → otherDoor n pick1 revealed final = true)
      ∧ finalPick params e n pick1 revealed stay b = .done final b')
    ∨ finalPick params e n pick1 revealed stay b = .stop .neverCompletes := by
  cases stay with
  | true => exact .inl ⟨pick1, b, fun _ => rfl, fun h => Bool.noConfusion h, rfl⟩
  | false =>
    obtain ⟨hlt, hne, -⟩ := otherDoor_iff.1 hreveal
    rcases chooseDoor_cases e b (popcount_candidates hmax hpick hlt hne.symm) (by omega) with
      ⟨door, b', hset, hdone⟩ | hstop
    · rw [candidates_getLsbD hmax] at hset
      exact .inl ⟨door, b', fun h => Bool.noConfusion h, fun _ => hset, hdone⟩
    · exact .inr hstop

theorem trial_of_reveal_stops {e : Engine} {doors car pick1 : U32} {f : Fault} {b b1 b2 : Bank}
    (hcar : bounded params e doors b = .done car b1) (hpick : bounded params e doors b1 = .done pick1 b2)
    (hreveal : chooseDoor params e (eligible doors.toNat car.toNat pick1.toNat)
      (eligiblePop doors.toNat car.toNat pick1.toNat) b2 = .stop f) : trial params e doors b = .stop f := by
  simp only [trial, hcar, hpick, hreveal, thenDraw_done, thenDraw_stop]

/-- A trial plays a legal game, unless one of its draws never ends. -/
theorem trial_cases (e : Engine) {doors : U32} (b : Bank) (hmin : 3 ≤ doors.toNat) (hmax : doors.toNat ≤ 32) :
    (∃ car pick1 revealed final stay b', LegalGame doors.toNat car pick1 revealed final stay
      ∧ trial params e doors b = .done (trialResult car pick1 revealed final stay) b')
    ∨ trial params e doors b = .stop .neverCompletes := by
  have hdoors : doors ≠ 0 := fun hzero => by simp [hzero] at hmin
  rcases bounded_cases e hdoors b with ⟨car, b1, hcar, hcarDone⟩ | ⟨-, hstop⟩
  case inr => exact .inr (by simp only [trial, hstop, thenDraw_stop])
  rcases bounded_cases e hdoors b1 with ⟨pick1, b2, hpick, hpickDone⟩ | ⟨-, hstop⟩
  case inr => exact .inr (by simp only [trial, hcarDone, hstop, thenDraw_done, thenDraw_stop])
  have hcarlt := yields_lt hdoors hcar
  have hpicklt := yields_lt hdoors hpick
  rcases reveal_cases e b2 hmin hmax hcarlt hpicklt with ⟨revealed, b3, hreveal, hrevealDone⟩ | hstop
  case inr => exact .inr (trial_of_reveal_stops hcarDone hpickDone hstop)
  rcases bounded_cases e (r := 2) (by decide) b3 with ⟨coin, b4, -, hcoinDone⟩ | ⟨-, hstop⟩
  case inr => exact .inr (by simp only [trial, hcarDone, hpickDone, hrevealDone, hstop, thenDraw_done, thenDraw_stop])
  rcases finalPick_cases e (coinStays params coin) b4 hmin hmax hpicklt hreveal with
    ⟨final, b5, hstay, hswitch, hfinalDone⟩ | hstop
  case inr =>
    exact .inr (by simp only [trial, hcarDone, hpickDone, hrevealDone, hcoinDone, hstop, thenDraw_done, thenDraw_stop])
  exact .inl ⟨_, _, _, _, _, b5, ⟨hcarlt, hpicklt, hreveal, hstay, hswitch⟩,
    trial_of_choices hcarDone hpickDone hrevealDone hcoinDone hfinalDone⟩

/-- The next states of `TRIAL` in a ready block. -/
theorem exec_trial_next {s t : State} (he : s.err = false) (hc : s.cfg = true) (hmin : 3 ≤ s.ndoors.toNat)
    (hmax : s.ndoors.toNat ≤ 32) (h : exec .trial s = .next t) :
    ∃ car pick1 revealed final stay, LegalGame s.ndoors.toNat car pick1 revealed final stay
      ∧ t.res.val = trialResult car pick1 revealed final stay := by
  rw [exec_trial_of_ready he hc] at h
  obtain ⟨v, b, hv, rfl⟩ := finish_cases h
  rcases trial_cases s.eng s.bank hmin hmax with ⟨car, pick1, revealed, final, stay, b', hgame, hdone⟩ | hstop
  · cases hdone.symm.trans hv
    exact ⟨car, pick1, revealed, final, stay, hgame, rfl⟩
  · cases hstop.symm.trans hv

theorem legal_doors {s : State} (h : legal s = true) (hc : s.cfg = true) : 3 ≤ s.ndoors.toNat ∧ s.ndoors.toNat ≤ 32 := by
  obtain ⟨-, -, hdoors⟩ := (legal_iff s).1 h
  exact hdoors hc

/-! ### The fields of the result -/

section

variable {t : State} {car pick1 revealed final : Nat} {stay : Bool}

/-- The result of a trial as one number. -/
theorem trialResult_toNat (hcar : car < 32) (hpick : pick1 < 32) (hrev : revealed < 32) (hfinal : final < 32)
    (ht : t.res.val = trialResult car pick1 revealed final stay) :
    t.res.val.toNat = (if stay then 2 else 0) + (if final = car then 0 else 1)
      + car * 2 ^ 8 + pick1 * 2 ^ 16 + revealed * 2 ^ 24 + final * 2 ^ 32 := by
  rw [ht, trialResult_eq hcar hpick hrev hfinal, BitVec.toNat_ofNat, Nat.mod_eq_of_lt]
  split <;> split <;> omega

/-- The four doors and the reserved fields of R216. -/
theorem resField_doors (hcar : car < 32) (hpick : pick1 < 32) (hrev : revealed < 32) (hfinal : final < 32)
    (ht : t.res.val = trialResult car pick1 revealed final stay) :
    resField t 8 8 = car ∧ resField t 16 8 = pick1 ∧ resField t 24 8 = revealed ∧ resField t 32 8 = final
      ∧ resField t 2 6 = 0 ∧ resField t 40 24 = 0 := by
  have hout : (if stay then 2 else 0) + (if final = car then 0 else 1) < 4 := by split <;> split <;> omega
  have hword := trialResult_toNat hcar hpick hrev hfinal ht
  have hupper : t.res.val.toNat / 2 ^ 16 = pick1 + revealed * 2 ^ 8 + final * 2 ^ 16 := by omega
  simp only [resField]
  omega

/-- The two outcome bits of R216. -/
theorem resField_outcome (hcar : car < 32) (hpick : pick1 < 32) (hrev : revealed < 32) (hfinal : final < 32)
    (ht : t.res.val = trialResult car pick1 revealed final stay) :
    (resField t 1 1 = 0 ↔ stay = false) ∧ (resField t 1 1 = 1 ↔ stay = true) ∧ (resField t 0 1 = 0 ↔ final = car) := by
  simp only [resField, trialResult_toNat hcar hpick hrev hfinal ht, Nat.reducePow]
  cases stay <;> simp only [if_true, Bool.false_eq_true, if_false, reduceCtorEq, iff_true, iff_false] <;> split <;> omega

end

/-! ### The zero stream of MCG128 -/

theorem draw_mcg_zero {b : Bank} (h0 : b.s0 = 0) (h1 : b.s1 = 0) (n : Nat) : draw .mcg128 b n = 0 := by
  rw [draw, bankAfter_mcg_zero h0 h1, nextWord_mcg_zero h0 h1]
  exact Nat.zero_div _

/-- The draw 0 is rejected unless the range divides `2^32`. -/
theorem rejected_mcg_zero {b : Bank} {r : U32} (h0 : b.s0 = 0) (h1 : b.s1 = 0) (hpow : ¬ ∃ k, r.toNat = 2 ^ k) (n : Nat) :
    rejected .mcg128 r b n = true := by
  have hpos : 0 < 2 ^ 32 % r.toNat := Nat.pos_of_ne_zero fun hmod => by
    obtain ⟨k, -, hk⟩ := (dvd_two_pow_32_iff r).1 (Nat.dvd_of_mod_eq_zero hmod)
    exact hpow ⟨k, hk⟩
  rw [rejected, draw_mcg_zero h0 h1, Nat.zero_mul, Nat.zero_mod, decide_eq_true_iff]
  exact hpos

theorem bounded_mcg_zero_stops {b : Bank} {r : U32} (h0 : b.s0 = 0) (h1 : b.s1 = 0) (hr : r ≠ 0)
    (hpow : ¬ ∃ k, r.toNat = 2 ^ k) : bounded params .mcg128 r b = .stop .neverCompletes :=
  bounded_of_allRejected hr (rejected_mcg_zero h0 h1 hpow)

theorem bounded_mcg_zero_of_pow_two {b : Bank} {r : U32} {k : Nat} (h0 : b.s0 = 0) (h1 : b.s1 = 0) (hk : k < 32)
    (hr : r.toNat = 2 ^ k) : bounded params .mcg128 r b = .done 0 b := by
  obtain ⟨v, hv, hdone⟩ := bounded_of_pow_two hk hr .mcg128 b
  rw [draw_mcg_zero h0 h1, Nat.zero_div] at hv
  rw [hdone, bankAfter_mcg_zero h0 h1, BitVec.eq_of_toNat_eq (hv.trans BitVec.toNat_zero.symm)]
  rfl

/-- A power of two from 4 on, less one, is odd and not 1. -/
theorem pow_two_sub_one_ne_pow_two {n k : Nat} (hn : 3 ≤ n) (hk : n = 2 ^ k) : ¬ ∃ j, n - 1 = 2 ^ j := by
  rintro ⟨j, hj⟩
  cases k with
  | zero => omega
  | succ k =>
    cases j with
    | zero => omega
    | succ j =>
      rw [Nat.pow_succ] at hk hj
      omega

/-- On the zero stream the car and the first pick are door 0 when the number of doors is a power of two, and the reveal is
then among a number of doors that is none. -/
theorem trial_mcg_zero_stops {b : Bank} {doors : U32} (h0 : b.s0 = 0) (h1 : b.s1 = 0) (hmin : 3 ≤ doors.toNat)
    (hmax : doors.toNat ≤ 32) : trial params .mcg128 doors b = .stop .neverCompletes := by
  by_cases hpow : ∃ k, doors.toNat = 2 ^ k
  · obtain ⟨k, hk⟩ := hpow
    have hk32 : k < 32 := (Nat.pow_lt_pow_iff_right (a := 2) (by decide)).1 (hk ▸ doors.isLt)
    have hzero := bounded_mcg_zero_of_pow_two h0 h1 hk32 hk
    have hpop : (BitVec.ofNat 32 (doors.toNat - 1)).toNat = doors.toNat - 1 := by
      rw [BitVec.toNat_ofNat, Nat.mod_eq_of_lt (by omega)]
    have hstop := bounded_mcg_zero_stops h0 h1 (ofNat_ne_zero (by omega) (by omega))
      (hpop.symm ▸ pow_two_sub_one_ne_pow_two hmin hk)
    have hreveal (mask : U32) : chooseDoor params .mcg128 mask (eligiblePop doors.toNat (0 : U32).toNat (0 : U32).toNat) b
        = .stop .neverCompletes := by
      rw [eligiblePop, if_pos rfl, chooseDoor_of_ne_one _ _ _ (by omega), pickFromMask, hstop, thenDraw_stop]
    exact trial_of_reveal_stops hzero hzero (hreveal _)
  · have hdoors : doors ≠ 0 := fun hzero => by simp [hzero] at hmin
    simp only [trial, bounded_mcg_zero_stops h0 h1 hdoors hpow, thenDraw_stop]

end Machine

/-- Settles O41: a trial that answers has played a legal game, and its doors and its outcome are read off the result. -/
theorem trialsAreLegal : Obligations.TrialsAreLegal := by
  unfold Obligations.TrialsAreLegal
  rintro s t ⟨he, hc⟩ hlegal h
  obtain ⟨hmin, hmax⟩ := legal_doors hlegal hc
  obtain ⟨car, pick1, revealed, final, stay, hgame, ht⟩ := exec_trial_next he hc hmin hmax h
  have hcar := hgame.car_lt
  have hpick := hgame.pick1_lt
  have hfinal := hgame.final_lt
  obtain ⟨hrev, hrevpick, hrevcar⟩ := otherDoor_iff.1 hgame.reveal
  obtain ⟨fcar, fpick, frev, ffinal, freserved, fupper⟩ :=
    resField_doors (by omega) (by omega) (by omega) (by omega) ht
  obtain ⟨fswitch, fstay, flost⟩ := resField_outcome (by omega) (by omega) (by omega) (by omega) ht
  simp only [fcar, fpick, frev, ffinal]
  refine ⟨hcar, hpick, hrev, hfinal, hrevpick, hrevcar, fun h => ?switch, fun h => hgame.final_of_stay (fstay.1 h), flost,
    fun h => ?stay, freserved, fupper⟩
  case switch => exact (otherDoor_iff.1 (hgame.final_of_switch (fswitch.1 h))).2
  case stay => rw [flost, hgame.final_of_stay (fstay.1 h), eq_comm]

/-- Settles O42: the two ends of a trial. -/
theorem trialHasNoFailureState : Obligations.TrialHasNoFailureState := by
  unfold Obligations.TrialHasNoFailureState
  rintro s ⟨he, hc⟩ hlegal
  obtain ⟨hmin, hmax⟩ := legal_doors hlegal hc
  rw [exec_trial_of_ready he hc]
  rcases trial_cases s.eng s.bank hmin hmax with ⟨car, pick1, revealed, final, stay, b', -, hdone⟩ | hstop
  · rw [hdone, finish_done]
    exact .inl ⟨_, rfl, he, rfl, rfl⟩
  · exact .inr (by rw [hstop, finish_stop])

/-- Settles O43: with three doors a switch takes the door that is neither the first pick nor revealed, which is the car's
unless the car's is the first pick. -/
theorem threeDoorSwitchWinsIffFirstPickMissed : Obligations.ThreeDoorSwitchWinsIffFirstPickMissed := by
  unfold Obligations.ThreeDoorSwitchWinsIffFirstPickMissed
  rintro s t ⟨he, hc⟩ hdoors h hswitch
  have hthree : s.ndoors.toNat = 3 := by rw [hdoors]; rfl
  obtain ⟨car, pick1, revealed, final, stay, hgame, ht⟩ := exec_trial_next he hc hthree.ge (by omega) h
  rw [hthree] at hgame
  have hcar := hgame.car_lt
  have hpick := hgame.pick1_lt
  have hfinal := hgame.final_lt
  obtain ⟨hrev, hrevpick, hrevcar⟩ := otherDoor_iff.1 hgame.reveal
  obtain ⟨fcar, fpick, -⟩ := resField_doors (by omega) (by omega) (by omega) (by omega) ht
  obtain ⟨fswitch, -, flost⟩ := resField_outcome (by omega) (by omega) (by omega) (by omega) ht
  obtain ⟨-, hfinalpick, hfinalrev⟩ := otherDoor_iff.1 (hgame.final_of_switch (fswitch.1 hswitch))
  rw [flost, fcar, fpick]
  omega

/-- Settles O32: on the zero stream every draw is 0, which is rejected for ever or taken at once; a command that never ends
is given up, or abandoned to the reset. -/
theorem zeroStreamNeverEnds : Obligations.ZeroStreamNeverEnds := by
  unfold Obligations.ZeroStreamNeverEnds
  refine ⟨fun s ⟨he, hc⟩ heng harg => ?seed,
    fun s ⟨he, hc⟩ heng h0 h1 => ⟨fun r hr hpow => ⟨?bounded, ?sample, fun hp => ?pick⟩, fun k hk => ?power,
      fun hmin hmax => ?trial⟩,
    fun s w i rest hops hdec hstuck => ⟨fun hrest => ?stuck, ?reset⟩⟩
  case seed =>
    refine ⟨_, exec_seed_of_ready he hc, ?_⟩
    rw [heng, harg]
    exact seedBank_mcg_zero s.bank
  case bounded => rw [exec_bounded_of_ready he hc hr, heng, bounded_mcg_zero_stops h0 h1 hr hpow]; rfl
  case sample =>
    rw [exec_sample_eq_exec_bounded he hc hr, exec_bounded_of_ready he hc hr, heng, bounded_mcg_zero_stops h0 h1 hr hpow]
    rfl
  case pick =>
    rw [exec_pick_of_ready he hc ⟨toNat_pos_of_ne_zero hr, hp.trans_le (rank_le _ 32)⟩, whenPopulation_arg0Mask hp, heng,
      pickFromMask, bounded_mcg_zero_stops h0 h1 hr hpow]
    rfl
  case power =>
    have hr : (BitVec.ofNat 32 (2 ^ k)).toNat = 2 ^ k := by
      rw [BitVec.toNat_ofNat, Nat.mod_eq_of_lt (Nat.pow_lt_pow_right (by decide) hk)]
    rw [exec_bounded_of_ready he hc (ne_zero_of_pow_two hr), heng, bounded_mcg_zero_of_pow_two h0 h1 hk hr]
    rfl
  case trial => rw [exec_trial_of_ready he hc, heng, trial_mcg_zero_stops h0 h1 hmin hmax]; rfl
  case stuck => rw [step_of_cmd_of_head hops hrest, runCommand_of_decode _ hdec]; exact hstuck
  case reset =>
    rintro rest' rfl
    have hrun : runCommand w (s.withOps (.reset :: rest')) = .fault .neverCompletes :=
      (runCommand_of_decode _ hdec).trans hstuck
    rw [step_of_cmd hops, hrun]
    rfl

end Sys2Proof
end

section
/-! A command that writes `RES` as one drawing computation, when a command answers and when it stops, and the statement of
`10_state.md` section 7 that follows: what a command does not look at. -/

namespace Sys2Proof

open Sys2Proof.Machine Sys2Proof.Safety Sys2Proof.Claims

namespace Machine

/-! ### The computation of a command -/

/-- One step, and a value made from its output (R133). -/
def drawWord {α : Type} (e : Engine) (value : Word → α) (b : Bank) : Drawn α :=
  .done (value (nextWord params e b).1) (nextWord params e b).2

/-- What a command that writes `RES` computes from a bank, with the other operands and the configuration of `s`; a rotate
draws nothing. The three commands that do not write `RES` compute nothing. -/
def commandDraw (s : State) (i : Instr) (b : Bank) : Drawn Word :=
  match i with
  | .rotl sub => .done (rotl64 (arg0Word s) (rotateAmount sub)) b
  | .rotr sub => .done (rotr64 (arg0Word s) (rotateAmount sub)) b
  | .next => drawWord s.eng id b
  | .rand32 => drawWord s.eng (fun w => (hi32 w).setWidth 64) b
  | .rand52 => drawWord s.eng (fun w => (w.extractLsb' 12 52).setWidth 64) b
  | .frand => drawWord s.eng (fun w => f64Sub (oneToTwo (w.extractLsb' 12 52)) f64One) b
  | .bounded r => zext64 (bounded params s.eng r b)
  | .sample m => zext64 (bounded params s.eng m b)
  | .sampleC m => zext64 (sampleTable params s.eng (tableEntries s m.toNat) b)
  | .pick p => pickWord (whenPopulation (arg0Mask params s) p (pickFromMask params s.eng (arg0Mask params s) p b))
  | .pickC p => pickWord (whenPopulation (arg0Mask params s) p
      (pickFromMaskByTable params s.eng (arg0Mask params s) (tableEntries s p.toNat) b))
  | .trial => trial params s.eng s.ndoors b
  | .config _ _ => .done 0 b
  | .seed => .done 0 b
  | .errclr => .done 0 b

/-- The command writes `RES` on success and is past the checks of R88. -/
structure Performs (i : Instr) (s : State) : Prop where
  writes : writesRes i = true
  clear : s.err = false
  ready : needsEngine i = true → s.cfg = true ∧ operandInRange i = true

theorem exec_of_performs {i : Instr} {s : State} (h : Performs i s) : exec i s = finish s (commandDraw s i s.bank) := by
  obtain ⟨hwrites, he, hready⟩ := h
  cases i with
  | config | seed | errclr => cases hwrites
  | rotl | rotr => exact unlessPending_clear _ he
  | next | rand32 | rand52 | frand | trial => exact drawing_ready he (hready rfl).1 rfl
  | bounded r =>
    obtain ⟨hc, hr⟩ := hready rfl
    exact exec_bounded_of_ready he hc (by rintro rfl; cases hr)
  | sample r =>
    obtain ⟨hc, hr⟩ := hready rfl
    have h0 : r ≠ 0 := by rintro rfl; cases hr
    exact (exec_sample_eq_exec_bounded he hc h0).trans (exec_bounded_of_ready he hc h0)
  | sampleC m =>
    obtain ⟨hc, hr⟩ := hready rfl
    exact exec_sampleC_of_ready he hc hr
  | pick p =>
    obtain ⟨hc, hr⟩ := hready rfl
    obtain ⟨h0, hmax⟩ := operandInRange_pick_iff.1 hr
    exact exec_pick_of_ready he hc ⟨toNat_pos_of_ne_zero h0, hmax⟩
  | pickC p =>
    obtain ⟨hc, hr⟩ := hready rfl
    exact exec_pickC_of_ready he hc (operandInRange_pickC_iff.1 hr)

/-! ### When a command answers -/

theorem exec_of_raises {i : Instr} {e : Error} {s : State} (he : s.err = false) (h : Raises s i e) :
    exec i s = .next (raise e (encode i) s) := by
  cases h with
  | locked hc => exact exec_config_locked he hc
  | configDoors hc hn => exact exec_config_badDoors he hc hn
  | configRng hc hn hid => exact exec_config_badRng he hc hn hid
  | notReady hi hc => exact exec_notReady hi he hc
  | range hi hc hr => exact exec_outOfRange hi (by rintro rfl; cases hr) he hc hr

/-- Of the state, the errors of a decoded command depend on `CFG` alone. -/
theorem raises_of_cfg_eq {i : Instr} {e : Error} {s s' : State} (h : s'.cfg = s.cfg) (hr : Raises s i e) :
    Raises s' i e := by
  cases hr with
  | locked hc => exact .locked (h.trans hc)
  | configDoors hc hn => exact .configDoors (h.trans hc) hn
  | configRng hc hn hid => exact .configRng (h.trans hc) hn hid
  | notReady hi hc => exact .notReady hi (h.trans hc)
  | range hi hc hr => exact .range hi (h.trans hc) hr

theorem exec_config_answers (n : U32) (id : BitVec 8) (s : State) : ∃ t, exec (.config n id) s = .next t := by
  cases he : s.err with
  | true => exact ⟨_, exec_config_pending he⟩
  | false =>
    cases hc : s.cfg with
    | true => exact ⟨_, exec_config_locked he hc⟩
    | false =>
      cases hn : doorsOk params n with
      | false => exact ⟨_, exec_config_badDoors he hc hn⟩
      | true =>
        cases hid : engineOfId id with
        | none => exact ⟨_, exec_config_badRng he hc hn hid⟩
        | some e => exact ⟨_, exec_config_accepted he hc hn hid⟩

/-- A command that is not performed answers all the same. -/
theorem exec_answers_or_performs (i : Instr) (s : State) : (∃ t, exec i s = .next t) ∨ Performs i s := by
  by_cases hwrites : writesRes i = true
  case neg =>
    cases i with
    | config n id => exact .inl (exec_config_answers n id s)
    | errclr => exact .inl ⟨_, rfl⟩
    | seed =>
      cases he : s.err with
      | true => exact .inl ⟨_, exec_pending rfl he⟩
      | false =>
        cases hc : s.cfg with
        | true => exact .inl ⟨_, exec_seed_of_ready he hc⟩
        | false => exact .inl ⟨_, exec_notReady rfl he hc⟩
    | _ => exact absurd rfl hwrites
  cases he : s.err with
  | true => exact .inl ⟨_, exec_discarded (by rintro rfl; cases hwrites) he⟩
  | false =>
    by_cases hready : needsEngine i = true → s.cfg = true ∧ operandInRange i = true
    · exact .inr ⟨hwrites, he, hready⟩
    · simp only [Classical.not_imp, not_and, Bool.not_eq_true] at hready
      obtain ⟨hi, hrange⟩ := hready
      cases hc : s.cfg with
      | false => exact .inl ⟨_, exec_of_raises he (.notReady hi hc)⟩
      | true => exact .inl ⟨_, exec_of_raises he (.range hi hc (hrange hc))⟩

/-- A command stops only in its computation. -/
theorem exec_stops {i : Instr} {s : State} {f : Fault} (h : exec i s = .fault f) :
    Performs i s ∧ commandDraw s i s.bank = .stop f := by
  rcases exec_answers_or_performs i s with ⟨t, ht⟩ | hperforms
  · cases ht.symm.trans h
  · refine ⟨hperforms, ?_⟩
    rw [exec_of_performs hperforms] at h
    cases hdraw : commandDraw s i s.bank with
    | done v b =>
      rw [hdraw] at h
      cases h
    | stop g =>
      rw [hdraw] at h
      cases h
      rfl

/-- A performed command that answers has drawn its result. -/
theorem exec_performs_next {i : Instr} {s t : State} (hperforms : Performs i s) (h : exec i s = .next t) :
    ∃ v b, commandDraw s i s.bank = .done v b ∧ t = (s.setBank b).setRes v := by
  rw [exec_of_performs hperforms] at h
  exact finish_cases h

/-! ### What a command looks at -/

/-- The two states agree on all that a command may look at: the block's fields but `RES`, and of `ARG0` and the table the
contents but not the marks. -/
structure SameInputs (s s' : State) : Prop where
  bank : s'.bank = s.bank
  eng : s'.eng = s.eng
  cfg : s'.cfg = s.cfg
  ndoors : s'.ndoors = s.ndoors
  arg0 : s'.arg0.val = s.arg0.val
  err : s'.err = s.err
  errcode : s'.errcode = s.errcode
  errcmd : s'.errcmd = s.errcmd
  table : ∀ m, tableEntries s' m = tableEntries s m

/-- The two states agree on what the commands write, `RES` apart. -/
structure SameOutputs (t t' : State) : Prop where
  bank : t'.bank = t.bank
  eng : t'.eng = t.eng
  cfg : t'.cfg = t.cfg
  ndoors : t'.ndoors = t.ndoors
  err : t'.err = t.err
  errcode : t'.errcode = t.errcode
  errcmd : t'.errcmd = t.errcmd

section

variable {s s' : State}

theorem SameInputs.outputs (h : SameInputs s s') : SameOutputs s s' :=
  ⟨h.bank, h.eng, h.cfg, h.ndoors, h.err, h.errcode, h.errcmd⟩

theorem SameInputs.commandDraw (h : SameInputs s s') (i : Instr) : commandDraw s' i s'.bank = commandDraw s i s.bank := by
  have harg : arg0Word s' = arg0Word s := h.arg0
  have hmask : arg0Mask params s' = arg0Mask params s := by rw [arg0Mask, arg0Mask, h.arg0]
  cases i <;> simp only [Machine.commandDraw, h.bank, h.eng, h.ndoors, h.table, harg, hmask]

theorem SameInputs.performs (h : SameInputs s s') {i : Instr} (hp : Performs i s) : Performs i s' :=
  ⟨hp.writes, h.err.trans hp.clear, fun hi => ⟨h.cfg.trans (hp.ready hi).1, (hp.ready hi).2⟩⟩



/-- From two states with the same inputs a performed command writes one result. -/
theorem SameInputs.exec_performs (h : SameInputs s s') {i : Instr} {t : State} (hp : Performs i s)
    (ht : exec i s = .next t) : ∃ t', exec i s' = .next t' ∧ SameOutputs t t' ∧ t'.res = t.res := by
  obtain ⟨v, b, hdraw, rfl⟩ := exec_performs_next hp ht
  refine ⟨(s'.setBank b).setRes v, ?_, ⟨rfl, h.eng, h.cfg, h.ndoors, h.err, h.errcode, h.errcmd⟩, rfl⟩
  rw [exec_of_performs (h.performs hp), h.commandDraw, hdraw, finish_done]

/-- From two states with the same inputs a command has the same effect. -/
theorem SameInputs.exec_next (h : SameInputs s s') {i : Instr} {t : State} (ht : exec i s = .next t) :
    ∃ t', exec i s' = .next t' ∧ SameOutputs t t'
      ∧ (writesRes i = true → s.err = false → t.err = false → t'.res = t.res) := by
  cases exec_effect ht with
  | discarded hi he =>
    exact ⟨s', exec_discarded hi (h.err.trans he), h.outputs, fun _ hclear => Bool.noConfusion (he.symm.trans hclear)⟩
  | raised he hr =>
    exact ⟨_, exec_of_raises (h.err.trans he) (raises_of_cfg_eq h.cfg hr), ⟨h.bank, h.eng, h.cfg, h.ndoors, rfl, rfl, rfl⟩,
      fun _ _ hclear => Bool.noConfusion hclear⟩
  | cleared =>
    exact ⟨_, rfl, ⟨h.bank, h.eng, h.cfg, h.ndoors, rfl, rfl, rfl⟩, fun hw => Bool.noConfusion hw⟩
  | @configured n id e he hc hn hid =>
    refine ⟨_, exec_config_accepted (h.err.trans he) (h.cfg.trans hc) hn hid,
      ⟨?_, rfl, rfl, rfl, h.err, h.errcode, h.errcmd⟩, fun hw => Bool.noConfusion hw⟩
    exact congrArg (seedBank params e seedConst) h.bank
  | seeded he hc =>
    refine ⟨_, exec_seed_of_ready (h.err.trans he) (h.cfg.trans hc),
      ⟨?_, h.eng, h.cfg, h.ndoors, h.err, h.errcode, h.errcmd⟩, fun hw => Bool.noConfusion hw⟩
    simp only [setBank_bank, h.eng, h.arg0, h.bank, arg0Word]
  | rotated v hi hw he =>
    obtain ⟨t', ht', hout, hres⟩ := h.exec_performs ⟨hw, he, fun hn => Bool.noConfusion (hi.symm.trans hn)⟩ ht
    exact ⟨t', ht', hout, fun _ _ _ => hres⟩
  | drew v b hi hw he hc hr =>
    obtain ⟨t', ht', hout, hres⟩ := h.exec_performs ⟨hw, he, fun _ => ⟨hc, hr⟩⟩ ht
    exact ⟨t', ht', hout, fun _ _ _ => hres⟩

theorem SameInputs.exec_fault (h : SameInputs s s') {i : Instr} {f : Fault} (hf : exec i s = .fault f) :
    exec i s' = .fault f := by
  obtain ⟨hp, hdraw⟩ := exec_stops hf
  rw [exec_of_performs (h.performs hp), h.commandDraw, hdraw, finish_stop]

end

theorem tableEntries_remarked (s : State) (marks : Fin 64 → Bool) (m : Nat) :
    tableEntries { s with cdf := Vector.ofFn fun j => { s.cdf.get j with written := marks j } } m = tableEntries s m := by
  refine List.ext_getElem (by simp [tableEntries]) fun i h1 h2 => ?_
  simp [tableEntries, Vector.get]

end Machine

/-- Settles O22: the states have the same inputs, so the checks fall out the same and the computation is one. -/
theorem commandsIgnoreOldResults : Obligations.CommandsIgnoreOldResults := by
  unfold Obligations.CommandsIgnoreOldResults
  intro i s r ops h m marks s'
  have hsame : SameInputs s s' := ⟨rfl, rfl, rfl, rfl, rfl, rfl, rfl, rfl, tableEntries_remarked s marks⟩
  refine ⟨fun t ht => ?_, fun f hf => hsame.exec_fault hf⟩
  obtain ⟨t', ht', hout, hres⟩ := hsame.exec_next ht
  exact ⟨t', ht', hout.bank, hout.eng, hout.cfg, hout.ndoors, hout.err, hout.errcode, hout.errcmd, hres⟩

end Sys2Proof
end

section
/-! The words that MCG128 does not use (R21): every drawing computation carries them along unread, and the statement of
`10_state.md` section 7 that follows. -/

namespace Sys2Proof

open Sys2Proof.Machine Sys2Proof.Safety Sys2Proof.Claims

namespace Machine

/-- The bank with these contents in `S[2]` and `S[3]`. -/
def Bank.withUnused (b : Bank) (x y : Word) : Bank := { b with s2 := x, s3 := y }

/-- The same value or stop, and the bank after the draws with these contents in `S[2]` and `S[3]`. -/
def Drawn.withUnused {α : Type} (d : Drawn α) (x y : Word) : Drawn α :=
  match d with
  | .done a b => .done a (b.withUnused x y)
  | .stop f => .stop f



/-- The computation carries `S[2]` and `S[3]` along unread. -/
def IgnoresUnused {α : Type} (draw : Bank → Drawn α) : Prop :=
  ∀ (b : Bank) (x y : Word), draw (b.withUnused x y) = (draw b).withUnused x y

theorem nextWord_mcg_withUnused (b : Bank) (x y : Word) : nextWord params .mcg128 (b.withUnused x y)
    = ((nextWord params .mcg128 b).1, (nextWord params .mcg128 b).2.withUnused x y) := rfl

theorem rand32_mcg_withUnused (b : Bank) (x y : Word) : rand32 params .mcg128 (b.withUnused x y)
    = ((rand32 params .mcg128 b).1, (rand32 params .mcg128 b).2.withUnused x y) := rfl

theorem unmoved_mcg_withUnused (b b' : Bank) (x y : Word) :
    unmoved .mcg128 (b.withUnused x y) (b'.withUnused x y) = unmoved .mcg128 b b' := rfl

/-! ### The drawing computations -/

theorem ignoresUnused_done {α : Type} (a : α) : IgnoresUnused fun b => .done a b := fun _ _ _ => rfl

theorem ignoresUnused_stop {α : Type} (f : Fault) : IgnoresUnused fun _ => (.stop f : Drawn α) := fun _ _ _ => rfl

theorem IgnoresUnused.thenDraw {α β : Type} {draw : Bank → Drawn α} {k : α → Bank → Drawn β} (h : IgnoresUnused draw)
    (hk : ∀ a, IgnoresUnused (k a)) : IgnoresUnused fun b => thenDraw (draw b) k := by
  intro b x y
  simp only [h b x y]
  cases draw b with
  | done a b' => exact hk a b' x y
  | stop f => rfl

theorem ignoresUnused_drawWord {α : Type} (value : Word → α) : IgnoresUnused (drawWord .mcg128 value) := by
  intro b x y
  rw [drawWord, nextWord_mcg_withUnused]
  rfl

theorem ignoresUnused_redraw (range t : U32) (fuel : Nat) : IgnoresUnused (redraw params .mcg128 range t fuel) := by
  induction fuel with
  | zero => exact ignoresUnused_stop _
  | succ fuel ih =>
    intro b x y
    rw [redraw, redraw, rand32_mcg_withUnused]
    dsimp only
    rw [unmoved_mcg_withUnused, ih _ x y]
    split_ifs <;> rfl

theorem ignoresUnused_bounded (range : U32) : IgnoresUnused (bounded params .mcg128 range) := by
  intro b x y
  rw [bounded, bounded, rand32_mcg_withUnused]
  dsimp only
  rw [ignoresUnused_redraw range _ _ _ x y]
  split_ifs <;> rfl

theorem ignoresUnused_sampleTable (entries : List Word) : IgnoresUnused (sampleTable params .mcg128 entries) := by
  unfold sampleTable
  split
  · exact ignoresUnused_drawWord fun w =>
      BitVec.ofNat 32 (scanTable (f64Sub (oneToTwo (w.extractLsb' 12 52)) f64One) entries 0)
  · exact ignoresUnused_stop _

theorem ignoresUnused_foundDoor (pos : Option Nat) : IgnoresUnused (foundDoor pos) := by
  cases pos with
  | none => exact ignoresUnused_stop _
  | some p => exact ignoresUnused_done p

theorem ignoresUnused_pickFromMask (mask p : U32) : IgnoresUnused (pickFromMask params .mcg128 mask p) :=
  (ignoresUnused_bounded p).thenDraw fun _ => ignoresUnused_foundDoor _

theorem ignoresUnused_pickFromMaskByTable (mask : U32) (entries : List Word) :
    IgnoresUnused (pickFromMaskByTable params .mcg128 mask entries) :=
  (ignoresUnused_sampleTable entries).thenDraw fun _ => ignoresUnused_foundDoor _

theorem IgnoresUnused.whenPopulation {draw : Bank → Drawn Nat} (h : IgnoresUnused draw) (mask p : U32) :
    IgnoresUnused fun b => whenPopulation mask p (draw b) := by
  unfold Machine.whenPopulation
  split
  · exact h
  · exact ignoresUnused_stop _

theorem IgnoresUnused.zext64 {draw : Bank → Drawn U32} (h : IgnoresUnused draw) : IgnoresUnused fun b => zext64 (draw b) :=
  h.thenDraw fun _ => ignoresUnused_done _

theorem IgnoresUnused.pickWord {draw : Bank → Drawn Nat} (h : IgnoresUnused draw) :
    IgnoresUnused fun b => pickWord (draw b) :=
  h.thenDraw fun _ => ignoresUnused_done _

theorem ignoresUnused_chooseDoor (mask : U32) (pop : Nat) : IgnoresUnused (chooseDoor params .mcg128 mask pop) := by
  unfold chooseDoor
  split
  · exact ignoresUnused_foundDoor _
  · exact ignoresUnused_pickFromMask mask _

theorem ignoresUnused_finalPick (n pick1 revealed : Nat) (stay : Bool) :
    IgnoresUnused (finalPick params .mcg128 n pick1 revealed stay) := by
  unfold finalPick
  split
  · exact ignoresUnused_done pick1
  · exact ignoresUnused_chooseDoor _ _

theorem ignoresUnused_trial (doors : U32) : IgnoresUnused (trial params .mcg128 doors) :=
  (ignoresUnused_bounded doors).thenDraw fun _ => (ignoresUnused_bounded doors).thenDraw fun _ =>
    (ignoresUnused_chooseDoor _ _).thenDraw fun _ => (ignoresUnused_bounded 2).thenDraw fun _ =>
      (ignoresUnused_finalPick _ _ _ _).thenDraw fun _ => ignoresUnused_done _

/-! ### The commands -/

/-- The state with these contents in `S[2]` and `S[3]`. -/
def State.withUnused (s : State) (x y : Word) : State := s.setBank (s.bank.withUnused x y)

theorem ignoresUnused_commandDraw {s : State} (heng : s.eng = .mcg128) (i : Instr) : IgnoresUnused (commandDraw s i) := by
  unfold commandDraw
  rw [heng]
  cases i with
  | config | seed | errclr | rotl | rotr => exact ignoresUnused_done _
  | next | rand32 | rand52 | frand => exact ignoresUnused_drawWord _
  | bounded r | sample r => exact (ignoresUnused_bounded r).zext64
  | sampleC m => exact (ignoresUnused_sampleTable _).zext64
  | pick p => exact ((ignoresUnused_pickFromMask _ p).whenPopulation _ p).pickWord
  | pickC p => exact ((ignoresUnused_pickFromMaskByTable _ _).whenPopulation _ p).pickWord
  | trial => exact ignoresUnused_trial _

theorem commandDraw_withUnused {s : State} (heng : s.eng = .mcg128) (i : Instr) (x y : Word) :
    commandDraw (s.withUnused x y) i (s.withUnused x y).bank = (commandDraw s i s.bank).withUnused x y :=
  ignoresUnused_commandDraw heng i s.bank x y

theorem bankAfter_mcg_withUnused (n : Nat) (b : Bank) (x y : Word) :
    bankAfter params .mcg128 n (b.withUnused x y) = (bankAfter params .mcg128 n b).withUnused x y := by
  induction n generalizing b with
  | zero => rfl
  | succ n ih => rw [bankAfter_succ, bankAfter_succ, nextWord_mcg_withUnused, ih]

theorem seedBank_mcg_withUnused (seed : Word) (b : Bank) (x y : Word) :
    seedBank params .mcg128 seed (b.withUnused x y) = (seedBank params .mcg128 seed b).withUnused x y :=
  bankAfter_mcg_withUnused _ (seedInit params .mcg128 seed b) x y

theorem setBank_setBank (s : State) (b b' : Bank) : (s.setBank b).setBank b' = s.setBank b' := rfl

theorem setConfig_setBank (s : State) (e : Engine) (n : U32) (b : Bank) :
    (s.setBank b).setConfig e n = (s.setConfig e n).setBank b := rfl

theorem performs_withUnused {i : Instr} {s : State} (hp : Performs i s) (x y : Word) : Performs i (s.withUnused x y) :=
  ⟨hp.writes, hp.clear, hp.ready⟩



theorem exec_performs_withUnused {i : Instr} {s t : State} (heng : s.eng = .mcg128) (hp : Performs i s)
    (ht : exec i s = .next t) (x y : Word) : exec i (s.withUnused x y) = .next (t.withUnused x y) := by
  obtain ⟨v, b, hdraw, rfl⟩ := exec_performs_next hp ht
  rw [exec_of_performs (performs_withUnused hp x y), commandDraw_withUnused heng, hdraw]
  rfl

/-- Under MCG128 every effect of a command carries `S[2]` and `S[3]` along, unless `CONFIG` selects another engine, which
writes them. -/
theorem exec_withUnused {i : Instr} {s t : State} (heng : s.eng = .mcg128) (ht : exec i s = .next t)
    (hengt : t.eng = .mcg128) (x y : Word) : exec i (s.withUnused x y) = .next (t.withUnused x y) := by
  cases exec_effect ht with
  | discarded hi he => exact exec_discarded hi he
  | raised he hr => exact exec_of_raises (s := s.withUnused x y) he (raises_of_cfg_eq (s := s) rfl hr)
  | cleared => rfl
  | @configured n id e he hc hn hid =>
    obtain rfl : e = .mcg128 := hengt
    rw [exec_config_accepted (s := s.withUnused x y) he hc hn hid, configure, configure, State.withUnused,
      State.withUnused, setBank_bank, setBank_bank, seedBank_mcg_withUnused, setConfig_setBank, setBank_setBank,
      setBank_setBank]
  | seeded he hc =>
    rw [exec_seed_of_ready (s := s.withUnused x y) he hc, State.withUnused, State.withUnused, setBank_bank, setBank_bank,
      setBank_eng, setBank_arg0, heng, seedBank_mcg_withUnused, setBank_setBank, setBank_setBank, arg0Word]
  | rotated v hi hw he =>
    exact exec_performs_withUnused heng ⟨hw, he, fun hn => Bool.noConfusion (hi.symm.trans hn)⟩ ht x y
  | drew v b hi hw he hc hr => exact exec_performs_withUnused heng ⟨hw, he, fun _ => ⟨hc, hr⟩⟩ ht x y

theorem exec_fault_withUnused {i : Instr} {s : State} {f : Fault} (heng : s.eng = .mcg128) (hf : exec i s = .fault f)
    (x y : Word) : exec i (s.withUnused x y) = .fault f := by
  obtain ⟨hp, hdraw⟩ := exec_stops hf
  rw [exec_of_performs (performs_withUnused hp x y), commandDraw_withUnused heng, hdraw]
  rfl

end Machine

/-- Settles O21: a step of MCG128 carries the two words along, and with it every draw, every seeding and every command. -/
theorem unusedWordsAreNeverRead : Obligations.UnusedWordsAreNeverRead := by
  unfold Obligations.UnusedWordsAreNeverRead
  exact fun i s x y heng => ⟨fun t ht hengt => exec_withUnused heng ht hengt x y,
    fun f hf => exec_fault_withUnused heng hf x y⟩

end Sys2Proof
end

section
/-! The two ends of every drawing computation, with the number of steps it takes (R210, R285), and the statement of
`70_reset_and_hazards.md` that follows. -/

namespace Sys2Proof

open Sys2Proof.Machine Sys2Proof.Safety Sys2Proof.Claims

namespace Machine

/-- From every bank the computation answers after a number of steps for which `count` holds, or it stops, though not on a
read of an element that nothing has written. -/
def Runs {α : Type} (e : Engine) (count : Nat → Prop) (draw : Bank → Drawn α) : Prop :=
  ∀ b : Bank, (∃ a n, count n ∧ draw b = .done a (bankAfter params e n b))
    ∨ ∃ f : Fault, f ≠ .unwrittenElement ∧ draw b = .stop f

/-! ### The drawing computations -/

theorem runs_done {α : Type} (e : Engine) (a : α) : Runs e (· = 0) fun b => .done a b :=
  fun _ => .inl ⟨a, 0, rfl, rfl⟩

theorem runs_stop {α : Type} (e : Engine) (count : Nat → Prop) {f : Fault} (hf : f ≠ .unwrittenElement) :
    Runs e count fun _ => (.stop f : Drawn α) :=
  fun _ => .inr ⟨f, hf, rfl⟩

theorem Runs.mono {α : Type} {e : Engine} {count count' : Nat → Prop} {draw : Bank → Drawn α} (h : Runs e count draw)
    (hcount : ∀ n, count n → count' n) : Runs e count' draw := by
  intro b
  rcases h b with ⟨a, n, hn, hdone⟩ | hstop
  · exact .inl ⟨a, n, hcount n hn, hdone⟩
  · exact .inr hstop

/-- The steps of two computations, one after the other, add up. -/
theorem Runs.thenDraw {α β : Type} {e : Engine} {count count' total : Nat → Prop} {draw : Bank → Drawn α}
    {k : α → Bank → Drawn β} (h : Runs e count draw) (hk : ∀ a, Runs e count' (k a))
    (htotal : ∀ m n, count m → count' n → total (m + n)) : Runs e total fun b => thenDraw (draw b) k := by
  intro b
  rcases h b with ⟨a, m, hm, hfirst⟩ | ⟨f, hf, hfirst⟩ <;> simp only [hfirst, thenDraw_done, thenDraw_stop]
  · rcases hk a (bankAfter params e m b) with ⟨v, n, hn, hsecond⟩ | hsecond
    · rw [← bankAfter_add] at hsecond
      exact .inl ⟨v, m + n, htotal m n hm hn, hsecond⟩
    · exact .inr hsecond
  · exact .inr ⟨f, hf, rfl⟩

/-- What follows takes no step. -/
theorem Runs.thenNoStep {α β : Type} {e : Engine} {count : Nat → Prop} {draw : Bank → Drawn α} {k : α → Bank → Drawn β}
    (h : Runs e count draw) (hk : ∀ a, Runs e (· = 0) (k a)) : Runs e count fun b => Machine.thenDraw (draw b) k :=
  h.thenDraw hk fun _ _ hm hn => hn.symm ▸ hm

theorem runs_drawWord {α : Type} (e : Engine) (value : Word → α) : Runs e (· = 1) (drawWord e value) :=
  fun _ => .inl ⟨_, 1, rfl, rfl⟩

/-- `Bounded` takes one step per draw, so one at least. -/
theorem runs_bounded (e : Engine) (range : U32) : Runs e (1 ≤ ·) (bounded params e range) := by
  intro b
  cases h : bounded params e range b with
  | stop f => exact .inr ⟨f, by rw [bounded_eq_stop h]; decide, rfl⟩
  | done v b' =>
    simp only [bounded] at h
    split at h
    · obtain ⟨j, -, rfl, -⟩ := redraw_eq_done h
      exact .inl ⟨v, j + 2, Nat.le_add_left 1 (j + 1), rfl⟩
    · cases h
      exact .inl ⟨_, 1, le_rfl, rfl⟩

theorem runs_sampleTable (e : Engine) (entries : List Word) : Runs e (· = 1) (sampleTable params e entries) := by
  unfold sampleTable
  split
  · exact runs_drawWord e fun w =>
      BitVec.ofNat 32 (scanTable (f64Sub (oneToTwo (w.extractLsb' 12 52)) f64One) entries 0)
  · exact runs_stop e _ (by decide)

theorem runs_foundDoor (e : Engine) (pos : Option Nat) : Runs e (· = 0) (foundDoor pos) := by
  cases pos with
  | none => exact runs_stop e _ (by decide)
  | some p => exact runs_done e p

theorem runs_pickFromMask (e : Engine) (mask p : U32) : Runs e (1 ≤ ·) (pickFromMask params e mask p) :=
  (runs_bounded e p).thenNoStep fun _ => runs_foundDoor e _

theorem runs_pickFromMaskByTable (e : Engine) (mask : U32) (entries : List Word) :
    Runs e (· = 1) (pickFromMaskByTable params e mask entries) :=
  (runs_sampleTable e entries).thenNoStep fun _ => runs_foundDoor e _

theorem Runs.whenPopulation {e : Engine} {count : Nat → Prop} {draw : Bank → Drawn Nat} (h : Runs e count draw)
    (mask p : U32) : Runs e count fun b => whenPopulation mask p (draw b) := by
  unfold Machine.whenPopulation
  split
  · exact h
  · exact runs_stop e _ (by decide)

theorem Runs.zext64 {e : Engine} {count : Nat → Prop} {draw : Bank → Drawn U32} (h : Runs e count draw) :
    Runs e count fun b => zext64 (draw b) :=
  h.thenNoStep fun _ => runs_done e _

theorem Runs.pickWord {e : Engine} {count : Nat → Prop} {draw : Bank → Drawn Nat} (h : Runs e count draw) :
    Runs e count fun b => pickWord (draw b) :=
  h.thenNoStep fun _ => runs_done e _

/-- A choice takes no step when it is forced. -/
theorem runs_chooseDoor (e : Engine) (mask : U32) (pop : Nat) : Runs e (0 ≤ ·) (chooseDoor params e mask pop) := by
  unfold chooseDoor
  split
  · exact (runs_foundDoor e _).mono fun n _ => n.zero_le
  · exact (runs_pickFromMask e mask _).mono fun n _ => n.zero_le

theorem runs_finalPick (e : Engine) (n pick1 revealed : Nat) (stay : Bool) :
    Runs e (0 ≤ ·) (finalPick params e n pick1 revealed stay) := by
  unfold finalPick
  split
  · exact (runs_done e pick1).mono fun n _ => n.zero_le
  · exact runs_chooseDoor e _ _

/-- The car, the first pick and the coin are always drawn. -/
theorem runs_trial (e : Engine) (doors : U32) : Runs e (3 ≤ ·) (trial params e doors) := by
  have hfinal (n pick1 revealed : Nat) (stay : Bool) (result : Nat → Word) : Runs e (0 ≤ ·) fun b =>
      thenDraw (finalPick params e n pick1 revealed stay b) fun final b => .done (result final) b :=
    (runs_finalPick e n pick1 revealed stay).thenNoStep fun _ => runs_done e _
  exact (runs_bounded e doors).thenDraw (count' := (2 ≤ ·)) (fun _ => (runs_bounded e doors).thenDraw
    (count' := (1 ≤ ·)) (fun _ => (runs_chooseDoor e _ _).thenDraw (count' := (1 ≤ ·)) (fun _ =>
      (runs_bounded e 2).thenDraw (fun _ => hfinal _ _ _ _ _) (by omega)) (by omega)) (by omega)) (by omega)

/-! ### The commands -/

/-- How many steps a command takes that answers with no error (`70_reset_and_hazards.md` section 3); `SEED` and `CONFIG`
are not meant. -/
def stepCount (i : Instr) (n : Nat) : Prop :=
  match i with
  | .next | .rand32 | .rand52 | .frand | .sampleC _ | .pickC _ => n = 1
  | .bounded _ | .sample _ | .pick _ => 1 ≤ n
  | .trial => 3 ≤ n
  | .rotl _ | .rotr _ | .errclr | .seed | .config _ _ => n = 0

theorem runs_commandDraw (s : State) (i : Instr) : Runs s.eng (stepCount i) (commandDraw s i) := by
  unfold commandDraw
  cases i with
  | config | seed | errclr | rotl | rotr => exact runs_done s.eng _
  | next | rand32 | rand52 | frand => exact runs_drawWord s.eng _
  | bounded r | sample r => exact (runs_bounded s.eng r).zext64
  | sampleC m => exact (runs_sampleTable s.eng _).zext64
  | pick p => exact ((runs_pickFromMask s.eng _ p).whenPopulation _ p).pickWord
  | pickC p => exact ((runs_pickFromMaskByTable s.eng _ _).whenPopulation _ p).pickWord
  | trial => exact runs_trial s.eng s.ndoors

/-- An effect with no draw takes no step, and a draw as many as its computation. -/
theorem exec_steps {i : Instr} {s t : State} (h : exec i s = .next t) (hseed : i ≠ .seed)
    (hconfig : ∀ n id, i ≠ .config n id) :
    (t.bank = s.bank ∧ (s.err = true ∨ t.err = true ∨ needsEngine i = false))
    ∨ (s.err = false ∧ t.err = false ∧ needsEngine i = true
      ∧ ∃ n, stepCount i n ∧ t.bank = bankAfter params s.eng n s.bank) := by
  cases exec_effect h with
  | discarded _ he => exact .inl ⟨rfl, .inl he⟩
  | raised => exact .inl ⟨rfl, .inr (.inl rfl)⟩
  | cleared => exact .inl ⟨rfl, .inr (.inr rfl)⟩
  | configured => exact absurd rfl (hconfig _ _)
  | seeded => exact absurd rfl hseed
  | rotated _ hi => exact .inl ⟨rfl, .inr (.inr hi)⟩
  | drew v b hi hw he hc hr =>
    obtain ⟨v', b', hdraw, ht⟩ := exec_performs_next ⟨hw, he, fun _ => ⟨hc, hr⟩⟩ h
    have hbank : b = b' := congrArg State.bank ht
    rcases runs_commandDraw s i s.bank with ⟨a, n, hn, hdone⟩ | ⟨f, -, hstop⟩
    · cases hdraw.symm.trans hdone
      exact .inr ⟨he, he, hi, n, hn, hbank⟩
    · cases hdraw.symm.trans hstop

end Machine

/-- Settles O49: an effect with no draw leaves `S` alone, and a draw takes the steps of its computation. -/
theorem commandsAdvanceTheStream : Obligations.CommandsAdvanceTheStream := by
  unfold Obligations.CommandsAdvanceTheStream
  intro i s t h hseed hconfig _
  rcases exec_steps h hseed hconfig with ⟨hbank, hnone⟩ | ⟨hes, het, hneeds, n, hn, hbank⟩
  · refine ⟨0, hbank, fun _ => rfl, fun hes het => ?_⟩
    have hi : needsEngine i = false := by simpa [hes, het] using hnone
    refine ⟨?_, ?_, ?_⟩
    · rintro (rfl | rfl | rfl | rfl | ⟨m, rfl⟩ | ⟨p, rfl⟩) <;> cases hi
    · rintro (⟨r, rfl⟩ | ⟨m, rfl⟩ | ⟨p, rfl⟩) <;> cases hi
    · rintro rfl
      cases hi
  · refine ⟨n, hbank, by simp [hes, het, hneeds], fun _ _ => ⟨?_, ?_, ?_⟩⟩
    · rintro (rfl | rfl | rfl | rfl | ⟨m, rfl⟩ | ⟨p, rfl⟩) <;> exact hn
    · rintro (⟨r, rfl⟩ | ⟨m, rfl⟩ | ⟨p, rfl⟩) <;> exact hn
    · rintro rfl
      exact hn

end Sys2Proof
end

section
/-! The reads of elements that nothing has written (R35, U6), the stops a command can have, and the statement of
`10_state.md` section 7 that follows. -/

namespace Sys2Proof

open Sys2Proof.Machine Sys2Proof.Safety Sys2Proof.Claims

namespace Safety

/-! ### The reads spelled out -/

theorem any_unwritten_iff (s : State) (n : Nat) : ((s.cdf.toList.take n).any fun r => !r.written) = true
    ↔ ∃ j : Fin 64, j.val < n ∧ (s.cdf.get j).written = false := by
  rw [List.any_eq_true]
  constructor
  · rintro ⟨r, hr, hw⟩
    obtain ⟨j, hj, rfl⟩ := List.mem_take_iff_getElem.1 hr
    have hlt : j < 64 := by
      rw [Vector.length_toList] at hj
      omega
    have hjn : j < n := by omega
    exact ⟨⟨j, hlt⟩, hjn, by simpa [Vector.get] using hw⟩
  · rintro ⟨j, hj, hw⟩
    refine ⟨s.cdf.get j, List.mem_take_iff_getElem.2 ⟨j.val, ?_, ?_⟩, by simpa using hw⟩
    · rw [Vector.length_toList]
      omega
    · simp [Vector.get]

theorem exists_lt_ite_iff {P : Prop} [Decidable P] {n : Nat} {Q : Fin 64 → Prop} :
    (∃ j : Fin 64, j.val < (if P then n else 0) ∧ Q j) ↔ P ∧ ∃ j : Fin 64, j.val < n ∧ Q j := by
  by_cases h : P <;> simp [h]

/-- A command that is not discarded reads an unwritten element exactly as `CommandReadsNone` says. -/
theorem commandReadsUnwritten_iff (i : Instr) (s : State) :
    commandReadsUnwritten i s = true ↔ s.err = false ∧ CommandReadsNone i s := by
  rw [commandReadsUnwritten, Bool.and_eq_true, Bool.or_eq_true, any_unwritten_iff, Bool.not_eq_true']
  refine and_congr_right fun _ => ?_
  cases i with
  | sampleC m => simp [readsArg0, tableReads, exists_lt_ite_iff, CommandReadsNone, operandInRange, and_assoc]
  | pickC p => simp [readsArg0, tableReads, exists_lt_ite_iff, CommandReadsNone, operandInRange, and_assoc, and_or_left]
  | pick p => simp [readsArg0, tableReads, CommandReadsNone, operandInRange, Nat.one_le_iff_ne_zero, and_assoc]
  | config | seed | errclr | rotl | rotr | next | rand32 | rand52 | frand | bounded | sample | trial =>
    simp [readsArg0, tableReads, CommandReadsNone]

/-- A command's reads of unwritten elements are of `ARG0` or of the table. -/
theorem unwritten_of_commandReadsNone {i : Instr} {s : State} (h : CommandReadsNone i s) :
    s.arg0.written = false ∨ ∃ j : Fin 64, (s.cdf.get j).written = false := by
  cases i with
  | rotl | rotr => exact .inl h
  | seed => exact .inl h.2
  | pick p =>
    obtain ⟨-, -, -, harg⟩ := h
    exact .inl harg
  | pickC p =>
    obtain ⟨-, -, -, harg | ⟨j, -, hj⟩⟩ := h
    · exact .inl harg
    · exact .inr ⟨j, hj⟩
  | sampleC m =>
    obtain ⟨-, -, -, j, -, hj⟩ := h
    exact .inr ⟨j, hj⟩
  | config | errclr | next | rand32 | rand52 | frand | bounded | sample | trial => exact h.elim

theorem readsUnwritten_rd_iff (idx : RegIndex) (s : State) :
    readsUnwritten (.rd idx) s = true ↔ ReadsNone (.rd idx) s := by
  have htable : (isCdfIndex params idx = true ∧ (s.cdf.get (cdfIndex idx)).written = false)
      ↔ ∃ j : Fin 64, idx.toNat = 0x40 + j.val ∧ (s.cdf.get j).written = false := by
    constructor
    · rintro ⟨hidx, hw⟩
      obtain ⟨j, hj⟩ := exists_cdf_of_isCdfIndex hidx
      exact ⟨j, hj, cdfIndex_of_toNat hj ▸ hw⟩
    · rintro ⟨j, hj, hw⟩
      exact ⟨isCdfIndex_iff.2 (by omega), (cdfIndex_of_toNat hj).symm ▸ hw⟩
  simp only [readsUnwritten, ReadsNone, ← htable, Bool.or_eq_true, Bool.and_eq_true, Bool.not_eq_true', beq_iff_eq,
    ← BitVec.toNat_inj, or_assoc]
  rfl

theorem readsUnwritten_wr_iff (idx : RegIndex) (w : Word) (s : State) :
    readsUnwritten (.wr idx w) s = true ↔ ReadsNone (.wr idx w) s := by
  simp only [readsUnwritten, ReadsNone, Bool.and_eq_true, beq_iff_eq, ← BitVec.toNat_inj]
  refine and_congr_right fun _ => ?_
  cases hdec : decode w with
  | ok i => simp [commandReadsUnwritten_iff]
  | error e => simp

theorem readsUnwritten_iff (op : HostOp) (s : State) : readsUnwritten op s = true ↔ ReadsNone op s := by
  cases op with
  | rd idx => exact readsUnwritten_rd_iff idx s
  | wr idx w => exact readsUnwritten_wr_iff idx w s
  | reset => exact ⟨fun h => Bool.noConfusion h, False.elim⟩

/-- Where all is written, nothing unwritten is read. -/
theorem not_readsNone_of_written {op : HostOp} {s : State} (harg : s.arg0.written = true) (hres : s.res.written = true)
    (htable : ∀ j : Fin 64, (s.cdf.get j).written = true) : ¬ ReadsNone op s := by
  have hcdf : ¬ ∃ j : Fin 64, (s.cdf.get j).written = false := by
    rintro ⟨j, hj⟩
    cases hj.symm.trans (htable j)
  intro h
  cases op with
  | rd idx =>
    rcases h with ⟨-, hw⟩ | ⟨-, hw⟩ | ⟨j, -, hw⟩
    · cases hw.symm.trans harg
    · cases hw.symm.trans hres
    · exact hcdf ⟨j, hw⟩
  | wr idx w =>
    obtain ⟨-, -, i, -, hreads⟩ := h
    rcases unwritten_of_commandReadsNone hreads with hw | hw
    · cases hw.symm.trans harg
    · exact hcdf hw
  | reset => exact h

theorem checkedStep_of_readsNone {s : State} {op : HostOp} {rest : List HostOp} (hops : s.hostOps = op :: rest)
    (h : ReadsNone op s) : checkedStep s = .fault .unwrittenElement := by
  rw [checkedStep, hops]
  exact if_pos ((readsUnwritten_iff op s).2 h)

theorem checkedStep_of_not_readsNone {s : State} {op : HostOp} {rest : List HostOp} (hops : s.hostOps = op :: rest)
    (h : ¬ ReadsNone op s) : checkedStep s = step s := by
  rw [checkedStep, hops]
  exact if_neg (mt (readsUnwritten_iff op s).1 h)

end Safety

namespace Machine

/-! ### The stops of a step -/



theorem exec_ne_unwrittenElement (i : Instr) (s : State) : exec i s ≠ .fault .unwrittenElement := by
  intro h
  obtain ⟨-, hdraw⟩ := exec_stops h
  rcases runs_commandDraw s i s.bank with ⟨a, n, -, hdone⟩ | ⟨f, hf, hstop⟩
  · cases hdraw.symm.trans hdone
  · cases hdraw.symm.trans hstop
    exact hf rfl

theorem runCommand_ne_unwrittenElement (w : Word) (s : State) : runCommand w s ≠ .fault .unwrittenElement := by
  cases hdec : decode w with
  | ok i =>
    rw [runCommand_of_decode s hdec]
    exact exec_ne_unwrittenElement i s
  | error e =>
    have hrun : runCommand w s = unlessPending s (.next (raise .illegal w s)) := by rw [runCommand, hdec]
    rw [hrun, unlessPending]
    split <;> rintro ⟨⟩

theorem hostWrites_ne_unwrittenElement (idx : RegIndex) (v : Word) (s : State) :
    hostWrites idx v s ≠ .fault .unwrittenElement := by
  unfold hostWrites
  split
  · rcases abandonedByReset_eq s (runCommand v s) with h | ⟨-, rest, -, h⟩ <;> rw [h]
    · exact runCommand_ne_unwrittenElement v s
    · rintro ⟨⟩
  · split <;> rintro ⟨⟩

theorem hostReads_ne_unwrittenElement (idx : RegIndex) (s : State) : hostReads idx s ≠ .fault .unwrittenElement := by
  unfold hostReads
  split <;> rintro ⟨⟩

theorem step_ne_unwrittenElement (s : State) : step s ≠ .fault .unwrittenElement := by
  cases hops : s.hostOps with
  | nil =>
    rw [step_of_idle hops]
    rintro ⟨⟩
  | cons op rest =>
    rw [step_of_hostOps hops]
    cases op with
    | rd idx => exact hostReads_ne_unwrittenElement idx _
    | wr idx v => exact hostWrites_ne_unwrittenElement idx v _
    | reset => rintro ⟨⟩

end Machine

/-- Settles O58: the two ways to say which elements an operation reads agree, and the stops of a command are those of its
computation, which reads free contents. -/
theorem checkedStepFaultsOnUnwrittenReads : Obligations.CheckedStepFaultsOnUnwrittenReads := by
  unfold Obligations.CheckedStepFaultsOnUnwrittenReads
  refine ⟨fun s op rest hops => ⟨checkedStep_of_readsNone hops, checkedStep_of_not_readsNone hops,
    fun harg hres htable => ?_⟩, fun s hops => by rw [checkedStep, hops], step_ne_unwrittenElement⟩
  exact checkedStep_of_not_readsNone hops (not_readsNone_of_written harg hres htable)

end Sys2Proof
end
